-- ==== Sys2Proof/Word.lean ====
section
/-! DEFINITION. The three word types of the block: a byte (R8), the 16-bit data checksum (R8, R41) and the 19-bit
command word (R81). -/

namespace Sys2Proof

/-- A byte, bits 7 down to 0 (R8). -/
abbrev Byte := BitVec 8

/-- A 16-bit value, bits 15 down to 0 (R8). -/
abbrev Word16 := BitVec 16

/-- The command word `CW` (R81). -/
abbrev CmdWord := BitVec 19

end Sys2Proof
end

