-- ==== Sys2Proof/Config.lean ====
section
/-! DEFINITION. What the spec leaves to the implementation or carries as a named parameter: the two channel depths (R7,
D12), RX_MIN_READY (R6, D5, U5), OUT_ON_DATA_CHECKSUM (R7, D7, U3) and ATOMIC_OPS (D10, U4). A machine's configuration
stands in `State.cfg` and no step changes it, so a statement over all states is a statement over all configurations. -/

namespace Sys2Proof

/-- RX_MIN_READY has the value 6, and 5 as the one alternative the spec names (D5, U5). -/
inductive RxMinReady where
  | six
  | five
deriving DecidableEq, Repr

/-- OUT after a DATA_CHECKSUM failure: untouched, or holding the rejected payload (U3). -/
inductive OutOnDataChecksum where
  | unchanged
  | payloadWritten
deriving DecidableEq, Repr

/-- The parameters of one machine. -/
structure Config where
  /-- RX_DEPTH (R7). -/
  rxDepth : Nat
  /-- TX_DEPTH (R7). -/
  txDepth : Nat
  /-- RX_MIN_READY (R6, U5). -/
  rxMinReady : RxMinReady
  /-- OUT_ON_DATA_CHECKSUM (R7, U3). -/
  outOnDataChecksum : OutOnDataChecksum
  /-- ATOMIC_OPS (U4): when true an operation is one atomic step (R32). -/
  atomicOps : Bool
deriving DecidableEq, Repr

/-- The spec's values where it gives one (R6, R7, R32). DESIGN CHOICE, unsafe for a statement that rests on it: both
depths are 64, the value the spec's own programs start with (95_test_vectors.md part 3); log entry 1. -/
def Config.standard : Config where
  rxDepth := 64
  txDepth := 64
  rxMinReady := .six
  outOnDataChecksum := .unchanged
  atomicOps := true

end Sys2Proof
end

