-- ==== Sys2Proof/Machine/Params.lean ====
section
/-! DEFINITION. The constants of R6, under the spec's names. -/

namespace Sys2Proof.Machine

/-- START: the start marker, first byte of every frame (R6). -/
abbrev startMarker : Byte := 170#8

/-- MSG_MAX_BYTES: greatest total length of a frame (R6). -/
abbrev msgMaxBytes : Nat := 63

/-- HDR_BYTES: bytes of a frame before the payload (R6). -/
abbrev hdrBytes : Nat := 5

/-- PREFIX_BYTES: bytes the parser reads before it tests anything (R6). -/
abbrev prefixBytes : Nat := 3

/-- MAX_PAYLOAD: greatest payload length, and the size of IN and of OUT (R6, R28). -/
abbrev maxPayload : Nat := 58

/-- HSUM_MOD: modulus of the header checksum (R6). -/
abbrev hsumMod : Nat := 256

/-- FL_MOD: modulus of both Fletcher-16 running sums (R6). -/
abbrev flMod : Nat := 255

/-- The two values of RX_MIN_READY as a count (R6, U5). -/
def minReadyCount : RxMinReady → Nat
  | .six => 6
  | .five => 5

end Sys2Proof.Machine
end

