-- ==== Sys2Proof/Syntax.lean ====
section
/-! DEFINITION. The operations of the block: one constructor per row of spec/opcode_table.json (R80, R82). A field the
command word carries but the operation ignores (R81) is no part of the operation. -/

namespace Sys2Proof

/-- The rows of the opcode table. -/
inductive Instr where
  /-- HDRSUM a, b (R101). -/
  | hdrsum (a b : Byte)
  /-- FLETCHER16 n (R105). -/
  | fletcher16 (n : Byte)
  /-- FRAME_READ (R120). -/
  | frameRead
  /-- FRAME_WRITE n (R150). -/
  | frameWrite (n : Byte)
  /-- RSTAT_GET (R133). -/
  | rstatGet
  /-- WSTAT_GET (R158). -/
  | wstatGet
  /-- The reserved code op = 110 (R83). -/
  | reserved6
  /-- The reserved code op = 111 (R83). -/
  | reserved7
deriving DecidableEq, Repr

end Sys2Proof
end

