-- ==== Sys2Proof/WellFormed.lean ====
section
/-! DEFINITION. Which operations a command word can select: FLETCHER16 with n > 58 is selected by none (R83, R105);
every operand of every other row is one its field can hold. -/

namespace Sys2Proof

/-- `FLETCHER16 n` needs `n ≤ 58`; the other rows have no condition (FRAME_WRITE with `b > 58` is defined, R83). -/
def Instr.wellFormed : Instr → Bool
  | .hdrsum _ _ => true
  | .fletcher16 n => decide (n.toNat ≤ Machine.maxPayload)
  | .frameRead => true
  | .frameWrite _ => true
  | .rstatGet => true
  | .wstatGet => true
  | .reserved6 => true
  | .reserved7 => true

end Sys2Proof
end

