-- ==== Sys2Proof/Decode.lean ====
section
/-! DEFINITION. The command word: its fields (R81), the decoder by mask and match (R82, R83), the encoder by the
canonical words of R82, and the decoder as spec/opcode_table.json numbers a word's bits. -/

namespace Sys2Proof

/-- `op`, bits 18:16 of the command word (R81). -/
def opField (cw : CmdWord) : BitVec 3 := cw.extractLsb' 16 3

/-- `a`, bits 15:8 of the command word (R81). -/
def aField (cw : CmdWord) : Byte := cw.extractLsb' 8 8

/-- `b`, bits 7:0 of the command word (R81). -/
def bField (cw : CmdWord) : Byte := cw.extractLsb' 0 8

/-- The mask column of R82, the same for every row. -/
def opMask : CmdWord := 0x70000#19

/-- Why a command word that is no row of its own selects no operation. -/
inductive DecodeError where
  /-- `op = 001` with `b = n > 58` (R83, D17). -/
  | fletcherLength (n : Byte)
deriving DecidableEq, Repr

/-- "A decoder tests `CW & 0x70000` against the match column" (R82). Total: the eight match values are all there are. -/
def decode (cw : CmdWord) : Except DecodeError Instr :=
  if cw &&& opMask = 0x00000#19 then .ok (.hdrsum (aField cw) (bField cw))
  else if cw &&& opMask = 0x10000#19 then
    if (bField cw).toNat ≤ Machine.maxPayload then .ok (.fletcher16 (bField cw))
    else .error (.fletcherLength (bField cw))
  else if cw &&& opMask = 0x20000#19 then .ok .frameRead
  else if cw &&& opMask = 0x30000#19 then .ok (.frameWrite (bField cw))
  else if cw &&& opMask = 0x40000#19 then .ok .rstatGet
  else if cw &&& opMask = 0x50000#19 then .ok .wstatGet
  else if cw &&& opMask = 0x60000#19 then .ok .reserved6
  else .ok .reserved7

/-- "`CW` as a number is `op × 65536 + a × 256 + b`" (R81). -/
def commandWord (op : BitVec 3) (a b : Byte) : CmdWord :=
  BitVec.ofNat 19 (op.toNat * 65536 + a.toNat * 256 + b.toNat)

/-- The canonical word of an operation: ignored fields zero (R81, R82). -/
def encode : Instr → CmdWord
  | .hdrsum a b => commandWord 0#3 a b
  | .fletcher16 n => commandWord 1#3 0#8 n
  | .frameRead => commandWord 2#3 0#8 0#8
  | .frameWrite n => commandWord 3#3 0#8 n
  | .rstatGet => commandWord 4#3 0#8 0#8
  | .wstatGet => commandWord 5#3 0#8 0#8
  | .reserved6 => commandWord 6#3 0#8 0#8
  | .reserved7 => commandWord 7#3 0#8 0#8

/-- The bits of the command word an operation looks at: `op`, and the operand fields it does not ignore (R81). -/
def usedBits : Instr → CmdWord
  | .hdrsum _ _ => 0x7FFFF#19
  | .fletcher16 _ => 0x700FF#19
  | .frameRead => 0x70000#19
  | .frameWrite _ => 0x700FF#19
  | .rstatGet => 0x70000#19
  | .wstatGet => 0x70000#19
  | .reserved6 => 0x70000#19
  | .reserved7 => 0x70000#19

/-- The command word a number of the opcode table stands for: its low 19 bits, since the command port has no line for
a bit above 18. DESIGN CHOICE, safe: log entry 7. -/
def tableCommandWord (nbits w : Nat) : CmdWord := BitVec.ofNat 19 (w % 2 ^ nbits)

/-- The operation the decoder reads from a word whose bits are numbered as spec/opcode_table.json numbers them. -/
def decodeTableWord (nbits w : Nat) : Option Instr :=
  match decode (tableCommandWord nbits w) with
  | .ok i => some i
  | .error _ => none

end Sys2Proof
end

