-- ==== Sys2Proof/Machine/Operands.lean ====
section
/-! DEFINITION. The two checksum functions (R100, R103) and the assembly of operands from and into frame bytes (R41,
R70 to R78). -/

namespace Sys2Proof.Machine

/-- `hdrsum(a, b) = (a + b) mod 256` (R100). -/
def hdrsum (a b : Byte) : Byte := BitVec.ofNat 8 ((a.toNat + b.toNat) % hsumMod)

/-- The body of the loop of R103 on the pair `(sum1, sum2)`: `sum2` takes the `sum1` just updated. -/
def fletcherStep (sums : Nat × Nat) (x : Byte) : Nat × Nat :=
  let sum1 := (sums.1 + x.toNat) % flMod
  (sum1, (sums.2 + sum1) % flMod)

/-- The running sums `(sum1, sum2)` after a byte sequence, from 0 and 0 (R103). -/
def fletcherSums (bs : List Byte) : Nat × Nat := bs.foldl fletcherStep (0, 0)

/-- `fletcher16(s) = sum2 × 256 + sum1` (R103). -/
def fletcher16 (bs : List Byte) : Word16 :=
  BitVec.ofNat 16 ((fletcherSums bs).2 * 256 + (fletcherSums bs).1)

/-- `v[15:8]` (R8). -/
def highByte (v : Word16) : Byte := v.extractLsb' 8 8

/-- `v[7:0]` (R8). -/
def lowByte (v : Word16) : Byte := v.extractLsb' 0 8

/-- `{hi, lo} = hi × 256 + lo` (R8, R41): the first of two wire bytes is the high one. -/
def joinBigEndian (hi lo : Byte) : Word16 := BitVec.ofNat 16 (hi.toNat * 256 + lo.toNat)

/-- The payload length `L - 5` of a frame whose total length byte is `L` (R72); used only when `L ≥ 5`. -/
abbrev payloadLength (L : Byte) : Nat := L.toNat - hdrBytes

/-- `T = n + 5`, formed without wrap (R151). -/
abbrev totalLength (n : Nat) : Nat := n + hdrBytes

/-- `frame(p)`: start marker, total length, header checksum, data checksum high byte first, payload (R70, R77). -/
def frame (p : List Byte) : List Byte :=
  let L : Byte := BitVec.ofNat 8 (totalLength p.length)
  let ck := fletcher16 p
  [startMarker, L, hdrsum startMarker L, highByte ck, lowByte ck] ++ p

/-- A valid frame (R78). -/
abbrev validFrame (f : List Byte) : Prop :=
  hdrBytes ≤ f.length ∧ f.length ≤ msgMaxBytes
    ∧ f.getD 0 0#8 = startMarker
    ∧ (f.getD 1 0#8).toNat = f.length
    ∧ f.getD 2 0#8 = hdrsum (f.getD 0 0#8) (f.getD 1 0#8)
    ∧ joinBigEndian (f.getD 3 0#8) (f.getD 4 0#8) = fletcher16 (f.drop hdrBytes)

end Sys2Proof.Machine
end

