-- ==== Sys2Proof/Machine/State.lean ====
section
/-! DEFINITION. The state of R20 as plain data, with the machine's parameters, the result port of R27 and the script of
R216; the reasons a step can stop; the state after reset (R200). -/

namespace Sys2Proof.Machine

/-- ReadStatus: exactly seven values (R23, R84). -/
inductive ReadStatus where
  | ok
  | notEnoughBytes
  | startByteNotRecognized
  | length
  | headerChecksum
  | dataLessThanLength
  | dataChecksum
deriving DecidableEq, Repr

/-- WriteStatus: exactly three values (R25, R84). -/
inductive WriteStatus where
  | ok
  | noBufferSpace
  | messageTooLong
deriving DecidableEq, Repr

/-- The pair `(ok, count)` that FRAME_READ and FRAME_WRITE hand the caller (R27). -/
structure OkCount where
  ok : Bool
  count : Byte
deriving DecidableEq, Repr

/-- What an operation hands the caller when it ends (R27). -/
inductive OpResult where
  /-- HDRSUM: one byte. -/
  | byte (b : Byte)
  /-- FLETCHER16: one 16-bit value. -/
  | word (w : Word16)
  /-- FRAME_READ: `Ok(k)` or `Fail`. -/
  | frameRead (r : OkCount)
  /-- FRAME_WRITE: `Ok(n + 5)` or `Fail`. -/
  | frameWrite (r : OkCount)
  /-- RSTAT_GET: the 3-bit code. -/
  | readStatus (code : BitVec 3)
  /-- WSTAT_GET: the 2-bit code. -/
  | writeStatus (code : BitVec 2)
deriving DecidableEq, Repr

/-- Where an operation that is run call by call stands (ATOMIC_OPS = false, U4), with the transients of R31 it holds
there. Each constructor names the NEXT call on the channel, in the order of R122 and R152. -/
inductive InFlight where
  /-- FRAME_READ step 1: `available()`. -/
  | readCheck
  /-- FRAME_READ step 2: `S <- readByte()`. -/
  | readStart
  /-- FRAME_READ step 2: `L <- readByte()`. -/
  | readLength (S : Byte)
  /-- FRAME_READ step 2: `H <- readByte()`, then the tests of steps 3 to 5. -/
  | readHsum (S L : Byte)
  /-- FRAME_READ step 6: `available()`. -/
  | readCount (L : Byte)
  /-- FRAME_READ step 7: `hi <- readByte()`. -/
  | readCkHigh (L : Byte)
  /-- FRAME_READ step 7: `lo <- readByte()`. -/
  | readCkLow (L hi : Byte)
  /-- FRAME_READ step 8: `P[i] <- readByte()` with `i` the length of `P`; after the last one, step 9. -/
  | readPayload (L : Byte) (CK : Word16) (P : List Byte)
  /-- `drain()` (R121): its `available()`. -/
  | drainCheck
  /-- `drain()` (R121): its `readByte()`. -/
  | drainRead
  /-- FRAME_WRITE step 1: `availableForWrite()`, then steps 2 and 3. -/
  | writeCheck (n : Byte)
  /-- FRAME_WRITE step 4: `writeByte` of the first pending byte; after the last one, step 5. -/
  | writeNext (T : Nat) (pending : List Byte)
deriving DecidableEq, Repr

/-- One line of a script (R85, R86, R216): an operation of the caller, another step of the caller, or a step of the
environment. -/
inductive Event where
  /-- The caller invokes the operation of a command word as one atomic step (R32, R81). -/
  | command (cw : CmdWord)
  /-- The caller invokes the operation of a command word call by call (ATOMIC_OPS = false, U4). -/
  | start (cw : CmdWord)
  /-- The operation in progress makes its next call on the channel (ATOMIC_OPS = false, U4). -/
  | advance
  /-- The caller writes `IN[at ..)` (R28; the script line `IN <- bs` of R85 has `at = 0`). -/
  | writeIn (at_ : Nat) (bs : List Byte)
  /-- The caller writes `OUT[at ..)` (R28; the script line `OUT <- bs` of R85 has `at = 0`). -/
  | writeOut (at_ : Nat) (bs : List Byte)
  /-- RX_ARRIVE bs (R50). -/
  | rxArrive (bs : List Byte)
  /-- TX_DEPART m (R51). -/
  | txDepart (m : Nat)
  /-- TX_DEPART all (R85). -/
  | txDepartAll
  /-- LOOPBACK (R86). -/
  | loopback
deriving DecidableEq, Repr

/-- The bytes of IN or of OUT: cells (index, byte) in the one canonical form of `Memory.wf` (Machine/Ops.lean). -/
abbrev Memory := List Host.Cell

/-- The whole state. -/
structure State where
  /-- The machine's parameters; no step changes them. -/
  cfg : Config
  /-- RSTAT (R20 item 1, R22). -/
  rstat : ReadStatus
  /-- WSTAT (R20 item 2, R24). -/
  wstat : WriteStatus
  /-- OUT[0..57] (R20 item 3, R28). -/
  outBuf : Memory
  /-- IN[0..57] (R20 item 4, R28). -/
  inBuf : Memory
  /-- RXQ, head first (R20 item 5, R30). -/
  rxq : List Byte
  /-- TXQ, head first (R20 item 6, R30). -/
  txq : List Byte
  /-- LINE, oldest byte first (R20 item 7). -/
  line : List Byte
  /-- The transients of an operation in progress (R20 item 8, R31); `none` between operations. -/
  inFlight : Option InFlight
  /-- MODEL's own: the result of the operation that ended in the last step, if one did (R27). DESIGN CHOICE, safe: log
  entry 3. -/
  result : Option OpResult
  /-- MODEL's own: the steps of the run that are known to come (R216; a run may add to them, Machine/Run.lean). DESIGN CHOICE, safe: log entry 4. -/
  script : List Event
deriving DecidableEq, Repr

/-- The reasons a run has gone wrong (93_implementation_defined.md U1 and U8, R42, R180 (b)). -/
inductive Fault where
  /-- Raised by `readByte` on an empty RXQ (R46, U1): safe, and unreachable. -/
  | readByteEmpty
  /-- Raised by `writeByte` with no room in TXQ (R48, U8): safe, and unreachable. -/
  | writeByteFull
  /-- Raised by a buffer access at an index above 57 (R42): safe, and unreachable. -/
  | indexOutOfRange
deriving DecidableEq, Repr

/-- The reasons a request has no meaning (R180 (a) and (c)). Every one is safe: the run stops. That a step the spec does
not have stops by name is a DESIGN CHOICE: log entry 6. -/
inductive Refusal where
  /-- Raised by an arm of `exec` whose instruction has no meaning yet: safe. No arm raises it now. -/
  | notModelled (mnemonic : String)
  /-- Raised by RESERVED_6 (R83): safe. -/
  | reservedOp6
  /-- Raised by RESERVED_7 (R83): safe. -/
  | reservedOp7
  /-- Raised by FLETCHER16 n with `n > 58` (R83, R105): safe. -/
  | fletcherLength (n : Byte)
  /-- Raised by an operation or a caller write while an operation is in progress (R180 (c)): safe. -/
  | operationInProgress
  /-- Raised by a call-by-call start on a machine whose operations are atomic (R32, U4): safe. -/
  | operationsAreAtomic
  /-- Raised by an arrival that RX_DEPTH has no room for (R50): safe. -/
  | rxDepthExceeded
  /-- Raised by a departure of no byte, or of more bytes than TXQ holds (R51): safe. -/
  | txDepartCount
  /-- Raised by a caller's write that leaves the 58 bytes of its buffer (R28): safe. -/
  | callerIndexOutOfRange
deriving DecidableEq, Repr

/-- What a meaning answers. -/
abbrev StepOutcome := Host.Outcome State Fault Refusal

/-- Reset (R200) of a machine with given parameters. -/
def State.resetWith (c : Config) : State where
  cfg := c
  rstat := .ok
  wstat := .ok
  outBuf := []
  inBuf := []
  rxq := []
  txq := []
  line := []
  inFlight := none
  result := none
  script := []

/-- Reset (R200) of the machine with the parameters `Config.standard`. -/
def State.reset : State := State.resetWith Config.standard

end Sys2Proof.Machine
end

