-- ==== Sys2Proof/Machine/Flags.lean ====
section
/-! DEFINITION. The block's only flags are its two status registers: their codes (R23, R25), the tests that decide a
status before any payload is read (R125 to R128), and the `(ok, count)` pairs (R27). -/

namespace Sys2Proof.Machine

/-- The 3-bit code of a ReadStatus (R23). -/
def readStatusCode : ReadStatus → BitVec 3
  | .ok => 0#3
  | .notEnoughBytes => 1#3
  | .startByteNotRecognized => 2#3
  | .length => 3#3
  | .headerChecksum => 4#3
  | .dataLessThanLength => 5#3
  | .dataChecksum => 6#3

/-- The 2-bit code of a WriteStatus (R25). -/
def writeStatusCode : WriteStatus → BitVec 2
  | .ok => 0#2
  | .noBufferSpace => 1#2
  | .messageTooLong => 2#2

/-- `Fail` is `(0, 0)` (R27). -/
def failPair : OkCount := ⟨false, 0#8⟩

/-- `Ok(n)` is `(1, n)` with an 8-bit count (R27). -/
def okPair (n : Nat) : OkCount := ⟨true, BitVec.ofNat 8 n⟩

/-- Steps 3, 4 and 5 of FRAME_READ in that order (R125, R126, R127): the status of the first test that fails. -/
def prefixStatus (S L H : Byte) : Option ReadStatus :=
  if S ≠ startMarker then some .startByteNotRecognized
  else if L.toNat > msgMaxBytes then some .length
  else if H ≠ hdrsum S L then some .headerChecksum
  else none

/-- The test of step 6 (R128): a comparison of integers, so that `L - 3` may be negative (D9). -/
abbrev countDiffers (ready : Nat) (L : Byte) : Prop :=
  (ready : Int) ≠ (L.toNat : Int) - (prefixBytes : Int)

end Sys2Proof.Machine
end

