-- ==== Sys2Proof/Machine/Ops.lean ====
section
/-! DEFINITION. The named operations over the state: the cells of IN and OUT (R28, R40), the channel calls (R44 to R49),
the drain (R121), and how an operation ends, which is the block's form of taking an exception (R27, R175). -/

namespace Sys2Proof.Machine

/-! ### The cells of a buffer -/

/-- What an unlisted index of IN or OUT reads as. DESIGN CHOICE, unsafe for a statement that rests on it: the spec has
"any value" there (R200, U7); log entry 2. -/
def unwrittenByte : Byte := 0#8

/-- The byte at an index. -/
def Memory.read : Memory → Nat → Byte
  | [], _ => unwrittenByte
  | (k, v) :: t, i => if k = i then v else Memory.read t i

/-- A cell put in its place, before the first greater index. -/
def Memory.insert (i : Nat) (b : Byte) : Memory → Memory
  | [] => [(i, b)]
  | (k, v) :: t => if i < k then (i, b) :: (k, v) :: t else (k, v) :: Memory.insert i b t

/-- One byte written; the cell is dropped when the byte is what an unlisted index reads as. -/
def Memory.write (m : Memory) (i : Nat) (b : Byte) : Memory :=
  let others := m.filter (fun c => c.1 != i)
  if b = unwrittenByte then others else Memory.insert i b others

/-- `n` bytes read in rising order from an index on: `MemRead(space, at, n)` (R10). -/
def Memory.readRange (m : Memory) (at_ : Nat) : Nat → List Byte
  | 0 => []
  | n + 1 => Memory.read m at_ :: Memory.readRange m (at_ + 1) n

/-- A byte sequence written in rising order from an index on: `MemWrite(space, at, n, v)` (R10). -/
def Memory.writeRange (m : Memory) (at_ : Nat) : List Byte → Memory
  | [] => m
  | b :: bs => Memory.writeRange (Memory.write m at_ b) (at_ + 1) bs

/-- The canonical form: indices strictly rising, all of them in the buffer, no cell equal to `unwrittenByte`. -/
def Memory.wf : Memory → Bool
  | [] => true
  | [(k, v)] => decide (k < maxPayload) && v != unwrittenByte
  | (k, v) :: (k', v') :: t => decide (k < k') && v != unwrittenByte && Memory.wf ((k', v') :: t)

/-! ### Sequencing -/

/-- A channel call or a buffer access followed by the rest of an operation; a fault ends it. -/
def andThen {α : Type} (r : Except Fault α) (k : α → StepOutcome) : StepOutcome :=
  match r with
  | .ok a => k a
  | .error f => .fault f

/-! ### The channel calls -/

/-- `available()` (R44). -/
abbrev available (s : State) : Nat := s.rxq.length

/-- `readByte()` (R45); with nothing ready it is a fault, never a value (R46). -/
def readByte (s : State) : Except Fault (Byte × State) :=
  match s.rxq with
  | [] => .error .readByteEmpty
  | b :: rest => .ok (b, { s with rxq := rest })

/-- `n` calls of `readByte()`, the bytes in the order they were read. -/
def readBytes : Nat → State → Except Fault (List Byte × State)
  | 0, s => .ok ([], s)
  | n + 1, s =>
    match readByte s with
    | .error f => .error f
    | .ok (b, s₁) =>
      match readBytes n s₁ with
      | .error f => .error f
      | .ok (bs, s₂) => .ok (b :: bs, s₂)

/-- `availableForWrite()` (R47); 0 were TXQ longer than TX_DEPTH, which no run reaches: DESIGN CHOICE, safe, log
entry 10. -/
abbrev availableForWrite (s : State) : Nat := s.cfg.txDepth - s.txq.length

/-- `writeByte(b)`: the count enqueued, which is 1, and the state after (R48); with no room it is a fault (U8). -/
def writeByte (b : Byte) (s : State) : Except Fault (Nat × State) :=
  if 0 < availableForWrite s then .ok (1, { s with txq := s.txq ++ [b] }) else .error .writeByteFull

/-- `writeBytes(buf)`: a sequence of `writeByte` calls, and the count they enqueued together (R49). -/
def writeBytes : List Byte → State → Except Fault (Nat × State)
  | [], s => .ok (0, s)
  | b :: bs, s =>
    match writeByte b s with
    | .error f => .error f
    | .ok (one, s₁) =>
      match writeBytes bs s₁ with
      | .error f => .error f
      | .ok (more, s₂) => .ok (one + more, s₂)

/-- `drain()` inside an atomic operation: `RXQ <- []` (R121). -/
def drain (s : State) : State := { s with rxq := [] }

/-! ### The buffers as an operation reaches them -/

/-- `IN[0..n)` (R40). -/
def loadIn (n : Nat) (s : State) : Except Fault (List Byte) :=
  if n ≤ maxPayload then .ok (Memory.readRange s.inBuf 0 n) else .error .indexOutOfRange

/-- `OUT[i] <- P[i]` for every index of `P` (R40, R130). -/
def storeOut (P : List Byte) (s : State) : Except Fault State :=
  if P.length ≤ maxPayload then .ok { s with outBuf := Memory.writeRange s.outBuf 0 P }
  else .error .indexOutOfRange

/-! ### How an operation ends -/

/-- The result handed to the caller (R27). -/
def giveResult (r : OpResult) (s : State) : State := { s with result := some r }

/-- FRAME_READ ends: RSTAT is written once, with the outcome (R22). -/
def endRead (st : ReadStatus) (r : OkCount) (s : State) : State :=
  giveResult (.frameRead r) { s with rstat := st }

/-- FRAME_WRITE ends: WSTAT is written once, with the outcome (R24). -/
def endWrite (st : WriteStatus) (r : OkCount) (s : State) : State :=
  giveResult (.frameWrite r) { s with wstat := st }

/-- `RSTAT <- Status; drain(); return Fail` (R122, R175). -/
def failRead (st : ReadStatus) (s : State) : State := endRead st failPair (drain s)

/-- `WSTAT <- Status; return Fail`, nothing enqueued (R152, R175). -/
def failWrite (st : WriteStatus) (s : State) : State := endWrite st failPair s

/-- OUT when the data checksum fails, under OUT_ON_DATA_CHECKSUM (R132, U3). -/
def rejectPayload (P : List Byte) (s : State) : Except Fault State :=
  match s.cfg.outOnDataChecksum with
  | .unchanged => .ok s
  | .payloadWritten => storeOut P s

/-- Step 9 of FRAME_READ on the staged payload `P` and the checksum `CK` read from the wire (R130). No drain: nothing
is ready. -/
def deliver (L : Byte) (CK : Word16) (P : List Byte) (s : State) : StepOutcome :=
  if fletcher16 P ≠ CK then
    andThen (rejectPayload P s) fun s₁ => .next (endRead .dataChecksum failPair s₁)
  else
    andThen (storeOut P s) fun s₁ => .next (endRead .ok (okPair (payloadLength L)) s₁)

end Sys2Proof.Machine
end

