-- ==== Sys2Proof/Machine/FrameReader.lean ====
section
/-! DEFINITION. The frame parser: FRAME_READ and RSTAT_GET (41_frame_reader.md). -/

namespace Sys2Proof.Machine

/-- Steps 7, 8 and 9 of FRAME_READ (R129, R130): two checksum bytes, the payload into the staging copy, the verdict. -/
def readBody (L : Byte) (s : State) : StepOutcome :=
  andThen (readByte s) fun (hi, s₁) =>
  andThen (readByte s₁) fun (lo, s₂) =>
  andThen (readBytes (payloadLength L) s₂) fun (P, s₃) =>
  deliver L (joinBigEndian hi lo) P s₃

/-- Steps 3 to 6 of FRAME_READ on the prefix just read (R125 to R128). -/
def checkAndReadBody (S L H : Byte) (s : State) : StepOutcome :=
  match prefixStatus S L H with
  | some st => .next (failRead st s)
  | none =>
    if countDiffers (available s) L then .next (failRead .dataLessThanLength s)
    else readBody L s

/-- FRAME_READ: the nine steps of R122. -/
def execFrameRead (s : State) : StepOutcome :=
  if available s < minReadyCount s.cfg.rxMinReady then .next (failRead .notEnoughBytes s)
  else
    andThen (readByte s) fun (S, s₁) =>
    andThen (readByte s₁) fun (L, s₂) =>
    andThen (readByte s₂) fun (H, s₃) =>
    checkAndReadBody S L H s₃

/-- RSTAT_GET: `return RSTAT`, changing nothing (R133). -/
def execRstatGet (s : State) : StepOutcome :=
  .next (giveResult (.readStatus (readStatusCode s.rstat)) s)

end Sys2Proof.Machine
end

