-- ==== Sys2Proof/Machine/FrameWriter.lean ====
section
/-! DEFINITION. The frame assembler: FRAME_WRITE and WSTAT_GET (42_frame_writer.md). -/

namespace Sys2Proof.Machine

/-- Steps 1 and 2 of FRAME_WRITE in that order (R153, R154): the status of the first test that fails. -/
def writeCheckStatus (n : Byte) (s : State) : Option WriteStatus :=
  if availableForWrite s < totalLength n.toNat then some .noBufferSpace
  else if totalLength n.toNat > msgMaxBytes then some .messageTooLong
  else none

/-- FRAME_WRITE n: the five steps of R152. "The block does not look at the returned count" of the calls (R48). -/
def execFrameWrite (n : Byte) (s : State) : StepOutcome :=
  match writeCheckStatus n s with
  | some st => .next (failWrite st s)
  | none =>
    andThen (loadIn n.toNat s) fun p =>
    andThen (writeBytes (frame p) s) fun (_, s₁) =>
    .next (endWrite .ok (okPair (totalLength n.toNat)) s₁)

/-- WSTAT_GET: `return WSTAT`, changing nothing (R158). -/
def execWstatGet (s : State) : StepOutcome :=
  .next (giveResult (.writeStatus (writeStatusCode s.wstat)) s)

end Sys2Proof.Machine
end

