-- ==== Sys2Proof/Machine/CallByCall.lean ====
section
/-! DEFINITION. The finer reading of FRAME_READ and FRAME_WRITE (ATOMIC_OPS = false, 93_implementation_defined.md U4):
"each channel call listed in R122 and R152 is a step of its own". What an operation computes between two calls belongs
to the call before it: DESIGN CHOICE, unsafe for a statement about the states between two calls, log entry 5. -/

namespace Sys2Proof.Machine

/-- The operation is in progress at a given point. -/
def hold (f : InFlight) (s : State) : State := { s with inFlight := some f }

/-- The operation is over: nothing is kept (R21). -/
def release (s : State) : State := { s with inFlight := none }

/-- The first point of an operation that calls the channel; `none` for an operation that does not. -/
def firstCall : Instr → Option InFlight
  | .hdrsum _ _ => none
  | .fletcher16 _ => none
  | .frameRead => some .readCheck
  | .frameWrite n => some (.writeCheck n)
  | .rstatGet => none
  | .wstatGet => none
  | .reserved6 => none
  | .reserved7 => none

/-- `RSTAT <- Status`, then the drain begins (R122). -/
def beginDrain (st : ReadStatus) (s : State) : State := hold .drainCheck { s with rstat := st }

/-- After steps 3 to 5: the drain, or on to step 6. -/
def afterPrefix (S L H : Byte) (s : State) : State :=
  match prefixStatus S L H with
  | some st => beginDrain st s
  | none => hold (.readCount L) s

/-- After a byte of step 7 or 8: the next payload byte, or step 9 when the payload is complete. -/
def collect (L : Byte) (CK : Word16) (P : List Byte) (s : State) : StepOutcome :=
  if P.length < payloadLength L then .next (hold (.readPayload L CK P) s)
  else deliver L CK P (release s)

/-- After a `writeByte` of step 4: the next one, or step 5. -/
def afterWrite (T : Nat) (pending : List Byte) (s : State) : State :=
  match pending with
  | [] => endWrite .ok (okPair T) (release s)
  | _ :: _ => hold (.writeNext T pending) s

/-- The call on the channel that `f` names, and what the operation does before its next one. -/
def advanceFrom (f : InFlight) (s : State) : StepOutcome :=
  match f with
  | .readCheck =>
    .next (if available s < minReadyCount s.cfg.rxMinReady then beginDrain .notEnoughBytes s else hold .readStart s)
  | .readStart => andThen (readByte s) fun (S, s₁) => .next (hold (.readLength S) s₁)
  | .readLength S => andThen (readByte s) fun (L, s₁) => .next (hold (.readHsum S L) s₁)
  | .readHsum S L => andThen (readByte s) fun (H, s₁) => .next (afterPrefix S L H s₁)
  | .readCount L =>
    .next (if countDiffers (available s) L then beginDrain .dataLessThanLength s else hold (.readCkHigh L) s)
  | .readCkHigh L => andThen (readByte s) fun (hi, s₁) => .next (hold (.readCkLow L hi) s₁)
  | .readCkLow L hi => andThen (readByte s) fun (lo, s₁) => collect L (joinBigEndian hi lo) [] s₁
  | .readPayload L CK P => andThen (readByte s) fun (b, s₁) => collect L CK (P ++ [b]) s₁
  | .drainCheck =>
    .next (if available s = 0 then giveResult (.frameRead failPair) (release s) else hold .drainRead s)
  | .drainRead => andThen (readByte s) fun (_, s₁) => .next (hold .drainCheck s₁)
  | .writeCheck n =>
    match writeCheckStatus n s with
    | some st => .next (failWrite st (release s))
    | none => andThen (loadIn n.toNat s) fun p => .next (hold (.writeNext (totalLength n.toNat) (frame p)) s)
  | .writeNext T [] => .next (endWrite .ok (okPair T) (release s))
  | .writeNext T (b :: pending) => andThen (writeByte b s) fun (_, s₁) => .next (afterWrite T pending s₁)

/-- The operation in progress makes its next call; with none in progress there is nothing to do. -/
def advance (s : State) : StepOutcome :=
  match s.inFlight with
  | none => .next s
  | some f => advanceFrom f s

/-- Which unit an operation in progress belongs to: true for FRAME_READ. -/
def InFlight.isRead : InFlight → Bool
  | .readCheck => true
  | .readStart => true
  | .readLength _ => true
  | .readHsum _ _ => true
  | .readCount _ => true
  | .readCkHigh _ => true
  | .readCkLow _ _ => true
  | .readPayload _ _ _ => true
  | .drainCheck => true
  | .drainRead => true
  | .writeCheck _ => false
  | .writeNext _ _ => false

end Sys2Proof.Machine
end

