-- ==== Sys2Proof/Machine/Checksum.lean ====
section
/-! DEFINITION. The checksum operations HDRSUM and FLETCHER16 (40_checksum.md). -/

namespace Sys2Proof.Machine

/-- HDRSUM a, b: `return hdrsum(a, b)` (R101). -/
def execHdrsum (a b : Byte) (s : State) : StepOutcome :=
  .next (giveResult (.byte (hdrsum a b)) s)

/-- FLETCHER16 n: `return fletcher16(IN[0..n))`, refused for `n > 58` (R105). -/
def execFletcher16 (n : Byte) (s : State) : StepOutcome :=
  if n.toNat ≤ maxPayload then
    andThen (loadIn n.toNat s) fun p => .next (giveResult (.word (fletcher16 p)) s)
  else .refused (.fletcherLength n)

end Sys2Proof.Machine
end

