-- ==== Sys2Proof/Machine/Reserved.lean ====
section
/-! DEFINITION. The two reserved operation codes (R83): "A model *refuses* them". -/

namespace Sys2Proof.Machine

/-- RESERVED_6: no meaning, no state change, not a no-op (R83). -/
def execReserved6 (_ : State) : StepOutcome := .refused .reservedOp6

/-- RESERVED_7: no meaning, no state change, not a no-op (R83). -/
def execReserved7 (_ : State) : StepOutcome := .refused .reservedOp7

end Sys2Proof.Machine
end

