-- ==== Sys2Proof/Machine/Dispatch.lean ====
section
/-! DEFINITION. One arm per row of the opcode table, each the direct call of its meaning. -/

namespace Sys2Proof.Machine

def exec (i : Instr) (s : State) : Host.Outcome State Fault Refusal :=
  match i with
  | .hdrsum a b => Sys2Proof.Machine.execHdrsum a b s
  | .fletcher16 n => Sys2Proof.Machine.execFletcher16 n s
  | .frameRead => Sys2Proof.Machine.execFrameRead s
  | .frameWrite n => Sys2Proof.Machine.execFrameWrite n s
  | .rstatGet => Sys2Proof.Machine.execRstatGet s
  | .wstatGet => Sys2Proof.Machine.execWstatGet s
  | .reserved6 => Sys2Proof.Machine.execReserved6 s
  | .reserved7 => Sys2Proof.Machine.execReserved7 s

end Sys2Proof.Machine
end

