-- ==== Sys2Proof/Machine/Environment.lean ====
section
/-! DEFINITION. The steps that are not operations: the caller's writes of IN and OUT (R28, R85) and the environment's
RX_ARRIVE, TX_DEPART and LOOPBACK (R50, R51, R86); and the pseudo-operations and frames of a script (R86). -/

namespace Sys2Proof.Machine

/-- The caller writes `IN[at ..)`; not while an operation is in progress (R28, R32). A start other than index 0 is
DEDUCED from R28, safe: log entry 9. -/
def callerWriteIn (at_ : Nat) (bs : List Byte) (s : State) : StepOutcome :=
  if s.inFlight.isSome then .refused .operationInProgress
  else if at_ + bs.length ≤ maxPayload then .next { s with inBuf := Memory.writeRange s.inBuf at_ bs }
  else .refused .callerIndexOutOfRange

/-- The caller writes `OUT[at ..)`; not while an operation is in progress (R28, R32). -/
def callerWriteOut (at_ : Nat) (bs : List Byte) (s : State) : StepOutcome :=
  if s.inFlight.isSome then .refused .operationInProgress
  else if at_ + bs.length ≤ maxPayload then .next { s with outBuf := Memory.writeRange s.outBuf at_ bs }
  else .refused .callerIndexOutOfRange

/-- RX_ARRIVE bs: `RXQ <- RXQ ++ bs` when it fits (R50). -/
def rxArrive (bs : List Byte) (s : State) : StepOutcome :=
  if s.rxq.length + bs.length ≤ s.cfg.rxDepth then .next { s with rxq := s.rxq ++ bs }
  else .refused .rxDepthExceeded

/-- `LINE <- LINE ++ TXQ[0..m)` and `TXQ <- TXQ[m..)` (R51). -/
def moveToLine (m : Nat) (s : State) : State :=
  { s with line := s.line ++ s.txq.take m, txq := s.txq.drop m }

/-- TX_DEPART m, for `1 ≤ m ≤ len(TXQ)` (R51). -/
def txDepart (m : Nat) (s : State) : StepOutcome :=
  if 1 ≤ m ∧ m ≤ s.txq.length then .next (moveToLine m s) else .refused .txDepartCount

/-- TX_DEPART all: `m = len(TXQ)`, and no step when TXQ is empty (R85), so that nothing moves. DEDUCED, safe: log
entry 8. -/
def txDepartAll (s : State) : StepOutcome := .next (moveToLine s.txq.length s)

/-- LOOPBACK: TX_DEPART all now, and next RX_ARRIVE of exactly the bytes it moved (R86). That a pseudo-operation of two
steps takes two steps here too is a DESIGN CHOICE, safe: log entry 8. -/
def loopback (s : State) : StepOutcome :=
  .next { moveToLine s.txq.length s with script := .rxArrive s.txq :: s.script }

end Sys2Proof.Machine
end

