-- ==== Sys2Proof/Machine/Events.lean ====
section
/-! DEFINITION. What one line of a script does (R85, R86): operations through the decoder and `exec`, the other lines
through Machine/Environment.lean and Machine/CallByCall.lean; and the script lines the pseudo-operations of R86 stand
for. -/

namespace Sys2Proof.Machine

/-- A command word that selects no operation is refused by name (R83). -/
def refuseWord : DecodeError → StepOutcome
  | .fletcherLength n => .refused (.fletcherLength n)

/-- The caller invokes the operation of a command word as one atomic step (R32); never while one is in progress
(R180 (c)). -/
def runCommand (cw : CmdWord) (s : State) : StepOutcome :=
  if s.inFlight.isSome then .refused .operationInProgress
  else
    match decode cw with
    | .error e => refuseWord e
    | .ok i => exec i s

/-- The caller invokes the operation of a command word call by call, where the machine allows it (U4); an operation
that makes no channel call is one step either way. -/
def startCommand (cw : CmdWord) (s : State) : StepOutcome :=
  if s.cfg.atomicOps then .refused .operationsAreAtomic
  else if s.inFlight.isSome then .refused .operationInProgress
  else
    match decode cw with
    | .error e => refuseWord e
    | .ok i =>
      match firstCall i with
      | none => exec i s
      | some f => .next (hold f s)

/-- One line of a script. -/
def runEvent (e : Event) (s : State) : StepOutcome :=
  match e with
  | .command cw => runCommand cw s
  | .start cw => startCommand cw s
  | .advance => advance s
  | .writeIn at_ bs => callerWriteIn at_ bs s
  | .writeOut at_ bs => callerWriteOut at_ bs s
  | .rxArrive bs => rxArrive bs s
  | .txDepart m => txDepart m s
  | .txDepartAll => txDepartAll s
  | .loopback => loopback s

/-- A step begins: its line leaves the script, and the result of the operation before it is no longer kept (R27). -/
def beginStep (rest : List Event) (s : State) : State := { s with script := rest, result := none }

/-- SEND p (R86). -/
def scriptSend (p : List Byte) : List Event :=
  [.writeIn 0 p, .command (encode (.frameWrite (BitVec.ofNat 8 p.length)))]

/-- POLL (R86). -/
def scriptPoll : List Event := [.command (encode .frameRead)]

/-- RX_FRAME p (R86). -/
def scriptRxFrame (p : List Byte) : List Event := [.rxArrive (frame p)]

end Sys2Proof.Machine
end

