-- ==== Sys2Proof/Machine/Step.lean ====
section
/-! DEFINITION. One step: the next line of the script. With no line left nothing happens, since "the block never acts on
its own" (R32). The runs of R216, finite and infinite, are in Machine/Run.lean. -/

namespace Sys2Proof.Machine

/-- One step. -/
def step (s : State) : Host.Outcome State Fault Refusal :=
  match s.script with
  | [] => .next s
  | e :: rest => runEvent e (beginStep rest s)

/-- `s` with the operation of a table word as the next line of the script, and no operation in progress. -/
def State.withFetchWord (s : State) (nbits w : Nat) : State :=
  { s with inFlight := none, script := .command (tableCommandWord nbits w) :: s.script }

end Sys2Proof.Machine
end

