-- ==== Sys2Proof/Machine/Run.lean ====
section
/-! DEFINITION. The runs of R216: finite or infinite sequences of caller steps, operations and environment steps from
the reset state. A run has no program: before each step the agents outside the block may put further lines behind those
the script still holds, and a run ends only where they stop doing so. -/

namespace Sys2Proof.Machine

/-- Any state the machine can be in right after reset (R200): any parameters, any bytes in IN and OUT (U7), and any
first lines of a script. -/
def State.AtReset (s : State) : Prop :=
  Memory.wf s.outBuf = true ∧ Memory.wf s.inBuf = true
    ∧ s = { State.resetWith s.cfg with outBuf := s.outBuf, inBuf := s.inBuf, script := s.script }

/-- The agents outside the block put further lines behind those the script holds. -/
def State.supply (s : State) (more : List Event) : State := { s with script := s.script ++ more }

/-- One step of a run: a line that was there, or that is put there, is taken. An idle step is none. -/
def StepsTo (s t : State) : Prop :=
  ∃ more : List Event, s.script ++ more ≠ [] ∧ step (s.supply more) = .next t

/-- The states `σ 0, σ 1, …` are a run of `len` steps, or an infinite one where `len` is `none` (R216). -/
def IsRun (len : Option Nat) (σ : Nat → State) : Prop :=
  (σ 0).AtReset ∧ ∀ i, (∀ n, len = some n → i < n) → StepsTo (σ i) (σ (i + 1))

end Sys2Proof.Machine
end

