-- ==== Sys2Proof/Safety.lean ====
section
/-! DEFINITION. What the statements call a good state: the queues within their depths (R20), IN and OUT in canonical
form within their 58 bytes (R28), and an operation in progress only where ATOMIC_OPS is false (R32, U4) and only with
the bytes or the room its coming channel calls need (R46, R48). -/

namespace Sys2Proof.Machine

/-- The bytes ready, or the room left, that the coming calls of an operation in progress rely on. -/
def InFlight.fits (s : State) : InFlight → Prop
  | .readCheck => True
  | .readStart => 5 ≤ s.rxq.length
  | .readLength _ => 4 ≤ s.rxq.length
  | .readHsum _ _ => 3 ≤ s.rxq.length
  | .readCount L => L.toNat ≤ 63 ∧ 2 ≤ s.rxq.length
  | .readCkHigh L => 5 ≤ L.toNat ∧ L.toNat ≤ 63 ∧ L.toNat - 3 ≤ s.rxq.length
  | .readCkLow L _ => 5 ≤ L.toNat ∧ L.toNat ≤ 63 ∧ L.toNat - 4 ≤ s.rxq.length
  | .readPayload L _ P =>
    L.toNat ≤ 63 ∧ P.length < L.toNat - 5 ∧ L.toNat - 5 ≤ P.length + s.rxq.length
  | .drainCheck => True
  | .drainRead => 1 ≤ s.rxq.length
  | .writeCheck _ => True
  | .writeNext T pending =>
    5 ≤ T ∧ T ≤ 63 ∧ 1 ≤ pending.length ∧ s.txq.length + pending.length ≤ s.cfg.txDepth

/-- The good states. -/
structure State.Inv (s : State) : Prop where
  rxq_fits : s.rxq.length ≤ s.cfg.rxDepth
  txq_fits : s.txq.length ≤ s.cfg.txDepth
  outBuf_wf : Memory.wf s.outBuf = true
  inBuf_wf : Memory.wf s.inBuf = true
  inFlight_fits : ∀ f, s.inFlight = some f → InFlight.fits s f
  atomic_idle : s.cfg.atomicOps = true → s.inFlight = none

/-- A step that is no fault. -/
def NoFault (o : StepOutcome) : Prop := ∀ f, o ≠ .fault f

end Sys2Proof.Machine
end

