-- ==== Sys2Proof/Certificates/Slice0/Obligations.lean ====
section
/-! DEFINITION. The statements for the provers. Each docstring names the rule of spec/ it formalises; what it says holds
in every state, for every configuration unless a premise names one. -/

open Sys2Proof Sys2Proof.Machine

/-! ### The command word -/

/-- R81, R82: the decoder reads back every operation the encoder writes, each operand at every value. -/
def Obligations.DecodeOfEncode : Prop :=
  ∀ i : Instr, i.wellFormed = true → decode (encode i) = .ok i

/-- R81, R82, R83: a word selects an operation exactly when the operation is well-formed and the word, with the fields
the operation ignores cleared, is its canonical word. So no bit the operation uses is dropped and no bit it ignores
matters. -/
def Obligations.DecodeSelectsByUsedBits : Prop :=
  ∀ (cw : CmdWord) (i : Instr),
    decode cw = .ok i ↔ i.wellFormed = true ∧ cw &&& usedBits i = encode i

/-- R81 ("`CW` as a number is `op × 65536 + a × 256 + b`") and the table of R82, with R83's exception for FLETCHER16. -/
def Obligations.CommandWordAsANumber : Prop :=
  ∀ a b : Byte,
    let word := fun op : Nat => BitVec.ofNat 19 (op * 65536 + a.toNat * 256 + b.toNat)
    decode (word 0) = .ok (.hdrsum a b)
    ∧ decode (word 1) = (if b.toNat ≤ 58 then .ok (.fletcher16 b) else .error (.fletcherLength b))
    ∧ decode (word 2) = .ok .frameRead
    ∧ decode (word 3) = .ok (.frameWrite b)
    ∧ decode (word 4) = .ok .rstatGet
    ∧ decode (word 5) = .ok .wstatGet
    ∧ decode (word 6) = .ok .reserved6
    ∧ decode (word 7) = .ok .reserved7
    ∧ (encode (.hdrsum a b)).toNat = a.toNat * 256 + b.toNat
    ∧ (encode (.fletcher16 b)).toNat = 0x10000 + b.toNat
    ∧ (encode .frameRead).toNat = 0x20000
    ∧ (encode (.frameWrite b)).toNat = 0x30000 + b.toNat
    ∧ (encode .rstatGet).toNat = 0x40000
    ∧ (encode .wstatGet).toNat = 0x50000

/-- Words of 95_test_vectors.md (VH1, VF13, VR8, VW4, VS1, VS2, VF32, VS7) decode to what their lines say. -/
def Obligations.SpecWordsDecode : Prop :=
  decode 0x0AA08#19 = .ok (.hdrsum 170#8 8#8)
  ∧ decode 0x10005#19 = .ok (.fletcher16 5#8)
  ∧ decode 0x20000#19 = .ok .frameRead
  ∧ decode 0x3003B#19 = .ok (.frameWrite 59#8)
  ∧ decode 0x40000#19 = .ok .rstatGet
  ∧ decode 0x50000#19 = .ok .wstatGet
  ∧ decode 0x1003B#19 = .error (.fletcherLength 59#8)
  ∧ decode 0x60000#19 = .ok .reserved6
  ∧ decode 0x70000#19 = .ok .reserved7

/-- R83, at the step: `op` 110 and 111 and FLETCHER16 with `b > 58` are refused (a refusal carries no state, so none
changes), and FRAME_WRITE with `b > 58` is a defined operation that fails. -/
def Obligations.ReservedCommandsRefused : Prop :=
  ∀ (s : State) (cw : CmdWord) (rest : List Event),
    s.script = .command cw :: rest → s.inFlight = none →
      (opField cw = 6#3 → step s = .refused .reservedOp6)
      ∧ (opField cw = 7#3 → step s = .refused .reservedOp7)
      ∧ (opField cw = 1#3 → 58 < (bField cw).toNat → step s = .refused (.fletcherLength (bField cw)))
      ∧ (opField cw = 3#3 → 58 < (bField cw).toNat →
          ∃ (t : State) (st : WriteStatus), st ≠ .ok
            ∧ step s = .next t
            ∧ t = { s with wstat := st, result := some (.frameWrite ⟨false, 0#8⟩), script := rest })

/-- R83, R105, at `exec`: where the two reserved rows and FLETCHER16 stop. -/
def Obligations.ReservedOperationsStop : Prop :=
  ∀ s : State,
    exec .reserved6 s = .refused .reservedOp6
    ∧ exec .reserved7 s = .refused .reservedOp7
    ∧ ∀ n : Byte, 58 < n.toNat → exec (.fletcher16 n) s = .refused (.fletcherLength n)

/-! ### The checksum operations -/

/-- R100, R101: HDRSUM completes in every state, changes no state of the block, and its result is `(a + b) mod 256`. -/
def Obligations.HdrsumResult : Prop :=
  ∀ (a b : Byte) (s : State), ∃ r : Byte,
    exec (.hdrsum a b) s = .next { s with result := some (.byte r) }
    ∧ r.toNat = (a.toNat + b.toNat) % 256

/-- R105 with R104 (d): FLETCHER16 n completes for `n ≤ 58`, changes no state of the block, and the two bytes of its
result are the closed forms of the two sums over `IN[0..n)`. -/
def Obligations.Fletcher16Result : Prop :=
  ∀ (n : Byte) (s : State), n.toNat ≤ 58 → ∃ w : Word16,
    exec (.fletcher16 n) s = .next { s with result := some (.word w) }
    ∧ w.toNat % 256 = (∑ i ∈ Finset.range n.toNat, (Memory.read s.inBuf i).toNat) % 255
    ∧ w.toNat / 256
        = (∑ i ∈ Finset.range n.toNat, (n.toNat - i) * (Memory.read s.inBuf i).toNat) % 255

/-- R103: both sums start at 0; each byte is added into `sum1`, then the new `sum1` into `sum2`, each reduced mod 255;
the result is `sum2 × 256 + sum1`. -/
def Obligations.FletcherRunningSums : Prop :=
  ∃ sum1 sum2 : List Byte → Nat,
    sum1 [] = 0 ∧ sum2 [] = 0
    ∧ (∀ (bs : List Byte) (x : Byte),
        sum1 (bs ++ [x]) = (sum1 bs + x.toNat) % 255
        ∧ sum2 (bs ++ [x]) = (sum2 bs + sum1 (bs ++ [x])) % 255)
    ∧ ∀ bs : List Byte, (fletcher16 bs).toNat = sum2 bs * 256 + sum1 bs

/-- R104 (a): neither byte of the checksum is ever 255. -/
def Obligations.FletcherBytesAtMost254 : Prop :=
  ∀ bs : List Byte, (highByte (fletcher16 bs)).toNat ≤ 254 ∧ (lowByte (fletcher16 bs)).toNat ≤ 254

/-- R104 (e): bytes 0 and 255 are the same to the checksum. -/
def Obligations.FletcherBlindTo255 : Prop :=
  ∀ bs : List Byte, fletcher16 (bs.map fun x => if x = 255#8 then 0#8 else x) = fletcher16 bs

/-- R104 (f), R107 (d): a swap of two bytes is caught unless 255 divides `(j - i) × (s[j] - s[i])`. -/
def Obligations.FletcherSwapOfTwoBytes : Prop :=
  ∀ (front mid back : List Byte) (x y : Byte),
    fletcher16 (front ++ [x] ++ mid ++ [y] ++ back) = fletcher16 (front ++ [y] ++ mid ++ [x] ++ back)
      ↔ (255 : Int) ∣ ((mid.length : Int) + 1) * ((y.toNat : Int) - (x.toNat : Int))

/-- R107 (c): a change of one byte goes uncaught only from 0 to 255 or from 255 to 0. -/
def Obligations.FletcherChangeOfOneByte : Prop :=
  ∀ (front back : List Byte) (x y : Byte), x ≠ y →
    (fletcher16 (front ++ [x] ++ back) = fletcher16 (front ++ [y] ++ back)
      ↔ (x = 0#8 ∧ y = 255#8) ∨ (x = 255#8 ∧ y = 0#8))

/-! ### The status queries -/

/-- R133, R23: RSTAT_GET completes in every state with the code of RSTAT and changes no state of the block. -/
def Obligations.RstatGetResult : Prop :=
  ∀ s : State, ∃ c : BitVec 3,
    exec .rstatGet s = .next { s with result := some (.readStatus c) }
    ∧ (s.rstat = .ok → c = 0#3)
    ∧ (s.rstat = .notEnoughBytes → c = 1#3)
    ∧ (s.rstat = .startByteNotRecognized → c = 2#3)
    ∧ (s.rstat = .length → c = 3#3)
    ∧ (s.rstat = .headerChecksum → c = 4#3)
    ∧ (s.rstat = .dataLessThanLength → c = 5#3)
    ∧ (s.rstat = .dataChecksum → c = 6#3)

/-- R158, R25: WSTAT_GET completes in every state with the code of WSTAT and changes no state of the block. -/
def Obligations.WstatGetResult : Prop :=
  ∀ s : State, ∃ c : BitVec 2,
    exec .wstatGet s = .next { s with result := some (.writeStatus c) }
    ∧ (s.wstat = .ok → c = 0#2)
    ∧ (s.wstat = .noBufferSpace → c = 1#2)
    ∧ (s.wstat = .messageTooLong → c = 2#2)

/-! ### The frame parser -/

/-- R136, the closed form of FRAME_READ, for every state and every configuration. At RX_MIN_READY = 6 and
OUT_ON_DATA_CHECKSUM = unchanged it is R136's table; the rows for the other values are U5's and U3's, not R136's. The first line whose
condition holds applies; whatever is not named is unchanged. The last clause is R136's last sentence. -/
def Obligations.FrameReadClosedForm : Prop :=
  ∀ s : State,
    let q := s.rxq
    let b := fun i : Nat => (q.getD i 0#8).toNat
    let delivered := fun out : Memory =>
      ∀ a : Nat, Memory.read out a = if a < q.length - 5 then q.getD (5 + a) 0#8 else Memory.read s.outBuf a
    ∃ (st : ReadStatus) (r : OkCount) (out : Memory),
      exec .frameRead s
        = .next { s with rstat := st, rxq := [], outBuf := out, result := some (.frameRead r) }
      ∧ (if q.length < (if s.cfg.rxMinReady = .six then 6 else 5) then
            st = .notEnoughBytes ∧ r = ⟨false, 0#8⟩ ∧ out = s.outBuf
          else if b 0 ≠ 170 then
            st = .startByteNotRecognized ∧ r = ⟨false, 0#8⟩ ∧ out = s.outBuf
          else if b 1 > 63 then
            st = .length ∧ r = ⟨false, 0#8⟩ ∧ out = s.outBuf
          else if b 2 ≠ (b 0 + b 1) % 256 then
            st = .headerChecksum ∧ r = ⟨false, 0#8⟩ ∧ out = s.outBuf
          else if q.length ≠ b 1 then
            st = .dataLessThanLength ∧ r = ⟨false, 0#8⟩ ∧ out = s.outBuf
          else if (fletcher16 (q.drop 5)).toNat ≠ b 3 * 256 + b 4 then
            st = .dataChecksum ∧ r = ⟨false, 0#8⟩
              ∧ (if s.cfg.outOnDataChecksum = .unchanged then out = s.outBuf else delivered out)
          else
            st = .ok ∧ r = ⟨true, BitVec.ofNat 8 (q.length - 5)⟩ ∧ delivered out)
      ∧ (s.cfg.rxMinReady = .six → (st = .ok ↔ validFrame q ∧ 6 ≤ q.length ∧ q.length ≤ 63))

/-- R135: after every FRAME_READ, whatever its result, RXQ is empty. -/
def Obligations.FrameReadEmptiesRxq : Prop :=
  ∀ s : State, ∃ t : State, exec .frameRead s = .next t ∧ t.rxq = []

/-- R132, on a machine with OUT_ON_DATA_CHECKSUM = unchanged: on `Fail` every byte of OUT keeps its value; on `Ok(k)`
exactly `OUT[0..k)` are written, with the payload. -/
def Obligations.FrameReadOutBytes : Prop :=
  ∀ s : State, s.cfg.outOnDataChecksum = .unchanged →
    ∃ (t : State) (r : OkCount), exec .frameRead s = .next t ∧ t.result = some (.frameRead r)
      ∧ (r.ok = false → ∀ a, Memory.read t.outBuf a = Memory.read s.outBuf a)
      ∧ (r.ok = true →
          (∀ a, a < r.count.toNat → Memory.read t.outBuf a = s.rxq.getD (5 + a) 0#8)
          ∧ ∀ a, r.count.toNat ≤ a → Memory.read t.outBuf a = Memory.read s.outBuf a)

/-- R27: after every FRAME_READ, `ok = 1` exactly when `RSTAT = OK`, and after every FRAME_WRITE, `ok = 1` exactly when
`WSTAT = OK`; `Fail` is `(0, 0)`. -/
def Obligations.OkBitTellsStatus : Prop :=
  (∀ s : State, ∃ (t : State) (r : OkCount), exec .frameRead s = .next t ∧ t.result = some (.frameRead r)
      ∧ (r.ok = true ↔ t.rstat = .ok) ∧ (r.ok = false → r.count = 0#8))
  ∧ ∀ (n : Byte) (s : State), ∃ (t : State) (r : OkCount),
      exec (.frameWrite n) s = .next t ∧ t.result = some (.frameWrite r)
      ∧ (r.ok = true ↔ t.wstat = .ok) ∧ (r.ok = false → r.count = 0#8)

/-- R131: a delivered payload has 1 to 58 bytes, and is all that was ready but the header; with RX_MIN_READY = 5 it may
also be empty. -/
def Obligations.DeliveredLengthBounds : Prop :=
  ∀ (s t : State) (k : Byte), exec .frameRead s = .next t → t.result = some (.frameRead ⟨true, k⟩) →
    s.rxq.length = k.toNat + 5 ∧ k.toNat ≤ 58 ∧ (s.cfg.rxMinReady = .six → 1 ≤ k.toNat)

/-- R78, R131, R136, for both values of RX_MIN_READY: FRAME_READ succeeds exactly when the ready bytes are, all of them
and nothing else, one valid frame, of length 6 to 63 (5 to 63 with RX_MIN_READY = 5). -/
def Obligations.FrameReadAcceptsExactlyValidFrames : Prop :=
  ∀ s : State, ∃ t : State, exec .frameRead s = .next t
    ∧ (t.rstat = .ok ↔
        validFrame s.rxq ∧ ((s.cfg.rxMinReady = .six → 6 ≤ s.rxq.length) ∧ s.rxq.length ≤ 63))

/-- R137: with the start marker right and a total length from 0 to 5, the status is DATA_LESS_THAN_LENGTH when the header
checksum is right and HEADER_CHECKSUM when it is not; nothing is accepted. -/
def Obligations.ShortLengthRejected : Prop :=
  ∀ (s : State) (L H : Byte) (more : List Byte),
    s.rxq = [170#8, L, H] ++ more → 3 ≤ more.length → L.toNat ≤ 5 →
    ∃ t : State, exec .frameRead s = .next t
      ∧ t.rstat = (if H.toNat = 170 + L.toNat then .dataLessThanLength else .headerChecksum)
      ∧ t.result = some (.frameRead ⟨false, 0#8⟩) ∧ t.outBuf = s.outBuf

/-- R138: a valid frame of length 6 to 63, alone in RXQ, with one bit of one byte flipped, is never accepted, and the
status is the one of R138's table. Bit 0 is the least significant. -/
def Obligations.SingleBitFlipRejected : Prop :=
  ∀ (s : State) (f : List Byte) (i j : Nat),
    validFrame f → 6 ≤ f.length → i < f.length → j < 8 →
    s.rxq = f.set i (f.getD i 0#8 ^^^ BitVec.twoPow 8 j) →
    ∃ t : State, exec .frameRead s = .next t
      ∧ t.rstat
          = (if i = 0 then .startByteNotRecognized
            else if i = 1 then (if 6 ≤ j then .length else .headerChecksum)
            else if i = 2 then .headerChecksum
            else .dataChecksum)
      ∧ t.result = some (.frameRead ⟨false, 0#8⟩)

/-- R204: a valid frame and any extra byte behind it (a second valid frame included) are all discarded with
DATA_LESS_THAN_LENGTH. -/
def Obligations.FrameWithExtraBytesLost : Prop :=
  ∀ (s : State) (f more : List Byte),
    validFrame f → more ≠ [] → s.rxq = f ++ more →
    exec .frameRead s
      = .next { s with rstat := .dataLessThanLength, rxq := [], result := some (.frameRead ⟨false, 0#8⟩) }

/-- R205: if the first ready byte is not 170, everything ready is discarded, a valid frame behind it included; the status
is START_BYTE_NOT_RECOGNIZED once enough bytes are ready for the first test. -/
def Obligations.LeadingGarbageCostsWindow : Prop :=
  ∀ (s : State) (x : Byte) (more : List Byte), s.rxq = x :: more → x ≠ 170#8 →
    exec .frameRead s
      = .next
          { s with
            rstat :=
              if more.length + 1 < (if s.cfg.rxMinReady = .six then 6 else 5) then .notEnoughBytes
              else .startByteNotRecognized
            rxq := []
            result := some (.frameRead ⟨false, 0#8⟩) }

/-- R206, R139: a poll when only part of a valid frame is ready consumes that part: NOT_ENOUGH_BYTES below the first
threshold, else DATA_LESS_THAN_LENGTH. -/
def Obligations.EarlyPollDestroysFrame : Prop :=
  ∀ (s : State) (f : List Byte) (m : Nat),
    validFrame f → m < f.length → s.rxq = f.take m →
    exec .frameRead s
      = .next
          { s with
            rstat :=
              if m < (if s.cfg.rxMinReady = .six then 6 else 5) then .notEnoughBytes
              else .dataLessThanLength
            rxq := []
            result := some (.frameRead ⟨false, 0#8⟩) }

/-- R208, R131: with RX_MIN_READY = 6 an empty payload is sent (FRAME_WRITE 0 succeeds with 5 bytes) but never received,
alone or followed by other bytes. -/
def Obligations.EmptyPayloadSentNotReceived : Prop :=
  (∀ s : State, s.txq.length + 5 ≤ s.cfg.txDepth →
    exec (.frameWrite 0#8) s
      = .next
          { s with
            wstat := .ok
            txq := s.txq ++ [170#8, 5#8, 175#8, 0#8, 0#8]
            result := some (.frameWrite ⟨true, 5#8⟩) })
  ∧ ∀ (s : State) (more : List Byte), s.cfg.rxMinReady = .six →
    s.rxq = [170#8, 5#8, 175#8, 0#8, 0#8] ++ more →
    exec .frameRead s
      = .next
          { s with
            rstat := if more = [] then .notEnoughBytes else .dataLessThanLength
            rxq := []
            result := some (.frameRead ⟨false, 0#8⟩) }

/-- R213, R41: a peer that sends the checksum low byte first is rejected with DATA_CHECKSUM unless the two sums are
equal. -/
def Obligations.LowByteFirstPeerRejected : Prop :=
  ∀ (s : State) (p : List Byte), 1 ≤ p.length → p.length ≤ 58 →
    s.rxq
      = [170#8, BitVec.ofNat 8 (p.length + 5), BitVec.ofNat 8 (175 + p.length), lowByte (fletcher16 p),
          highByte (fletcher16 p)] ++ p →
    ∃ t : State, exec .frameRead s = .next t
      ∧ t.rstat = (if highByte (fletcher16 p) = lowByte (fletcher16 p) then .ok else .dataChecksum)

/-! ### The frame assembler -/

/-- R159, the closed form of FRAME_WRITE n for every `n` from 0 to 255, with the frame's bytes as R77 and R156 list
them. The address of payload byte `i` is index `i` of IN; whatever is not named is unchanged. -/
def Obligations.FrameWriteClosedForm : Prop :=
  ∀ (n : Byte) (s : State),
    let free := s.cfg.txDepth - s.txq.length
    let p := (List.range n.toNat).map fun i => Memory.read s.inBuf i
    exec (.frameWrite n) s
      = .next
          (if free < n.toNat + 5 then
            { s with wstat := .noBufferSpace, result := some (.frameWrite ⟨false, 0#8⟩) }
          else if 59 ≤ n.toNat then
            { s with wstat := .messageTooLong, result := some (.frameWrite ⟨false, 0#8⟩) }
          else
            { s with
              wstat := .ok
              txq := s.txq
                ++ ([170#8, n + 5#8, 175#8 + n, highByte (fletcher16 p), lowByte (fletcher16 p)] ++ p)
              result := some (.frameWrite ⟨true, n + 5#8⟩) })

/-- R161: for `n ≥ 59` the report is MESSAGE_TOO_LONG only if `free ≥ n + 5` and NO_BUFFER_SPACE otherwise; with
`TX_DEPTH < 64` no operation ever reports MESSAGE_TOO_LONG; either way `Fail`, and nothing is enqueued. -/
def Obligations.WhichFailureForLongPayload : Prop :=
  (∀ (n : Byte) (s : State), 59 ≤ n.toNat → ∃ t : State, exec (.frameWrite n) s = .next t
    ∧ t.wstat = (if n.toNat + 5 ≤ s.cfg.txDepth - s.txq.length then .messageTooLong else .noBufferSpace)
    ∧ (s.cfg.txDepth < n.toNat + 5 → t.wstat = .noBufferSpace)
    ∧ t.result = some (.frameWrite ⟨false, 0#8⟩) ∧ t.txq = s.txq)
  ∧ ∀ (n : Byte) (s t : State), s.cfg.txDepth < 64 → exec (.frameWrite n) s = .next t →
      t.wstat ≠ .messageTooLong

/-- R160: if FRAME_WRITE n succeeds, and exactly the bytes it enqueued are the whole of RXQ at a FRAME_READ, that
FRAME_READ returns `Ok(n)` with the payload in OUT, for `n` from 1 to 58; for `n = 0` it fails with NOT_ENOUGH_BYTES
when RX_MIN_READY = 6, and returns `Ok(0)` when it is 5. -/
def Obligations.RoundTrip : Prop :=
  ∀ (n : Byte) (s t u : State),
    exec (.frameWrite n) s = .next t → t.wstat = .ok → u.rxq = t.txq.drop s.txq.length →
    (n = 0#8 → t.txq = s.txq ++ [170#8, 5#8, 175#8, 0#8, 0#8])
    ∧ ∃ v : State, exec .frameRead u = .next v
      ∧ (if u.cfg.rxMinReady = .six ∧ n = 0#8 then
          v.rstat = .notEnoughBytes ∧ v.result = some (.frameRead ⟨false, 0#8⟩)
        else
          v.rstat = .ok ∧ v.result = some (.frameRead ⟨true, n⟩)
          ∧ ∀ i, i < n.toNat → Memory.read v.outBuf i = Memory.read s.inBuf i)

/-- R78: `frame(p)` is a valid frame for every `p` of at most 58 bytes, and every valid frame is `frame(f[5..))`. -/
def Obligations.ValidFramesAreFrames : Prop :=
  (∀ p : List Byte, p.length ≤ 58 → validFrame (frame p) ∧ (frame p).length = p.length + 5)
  ∧ ∀ f : List Byte, validFrame f → f = frame (f.drop 5)

/-! ### All operations -/

/-- R26: FRAME_READ leaves WSTAT, TXQ, LINE and IN unchanged; FRAME_WRITE leaves RSTAT, RXQ and OUT (and LINE and IN)
unchanged; the other operations change no state of the block at all. No operation changes the machine's parameters, the
script or an operation in progress. -/
def Obligations.OperationsLeaveTheRestAlone : Prop :=
  ∀ (i : Instr) (s t : State), exec i s = .next t →
    (t.cfg = s.cfg ∧ t.script = s.script ∧ t.inFlight = s.inFlight ∧ t.line = s.line ∧ t.inBuf = s.inBuf)
    ∧ (i = .frameRead → t.wstat = s.wstat ∧ t.txq = s.txq)
    ∧ ((∃ n, i = .frameWrite n) → t.rstat = s.rstat ∧ t.rxq = s.rxq ∧ t.outBuf = s.outBuf)
    ∧ (i ≠ .frameRead → (∀ n, i ≠ .frameWrite n) → t = { s with result := t.result })

/-- R185, from R26: a FRAME_READ and a FRAME_WRITE commute; only the result port keeps the later one's result. -/
def Obligations.ReadAndWriteCommute : Prop :=
  ∀ (n : Byte) (s : State), ∃ r w rw wr : State,
    exec .frameRead s = .next r ∧ exec (.frameWrite n) r = .next rw
    ∧ exec (.frameWrite n) s = .next w ∧ exec .frameRead w = .next wr
    ∧ rw.result = w.result ∧ wr.result = r.result
    ∧ { rw with result := none } = { wr with result := none }

/-- R42, R46, R48: no operation, in any state, calls `readByte` with nothing ready, `writeByte` with no room, or forms a
buffer index above 57. -/
def Obligations.OperationsNeverFault : Prop :=
  ∀ (i : Instr) (s : State), NoFault (exec i s)

/-! ### Steps of a run -/

/-- R32, R80: between operations, when the next line of the script is a command word that decodes to `i`, the step is
`exec i`, with the line taken off the script and the earlier result no longer kept. When the line starts that command
word call by call, on a machine where operations are not atomic (U4), FRAME_READ and FRAME_WRITE are put in progress at
their first channel call and every other operation is run whole (log entry 5). A word that selects no operation is
refused on either line (R83). -/
def Obligations.StepRunsTheDecodedOperation : Prop :=
  ∀ (s : State) (cw : CmdWord) (rest : List Event), s.inFlight = none →
    let s₀ := { s with script := rest, result := none }
    let atomically := { s with script := .command cw :: rest }
    let callByCall := { s with script := .start cw :: rest }
    (∀ i : Instr, decode cw = .ok i →
      step atomically = exec i s₀
      ∧ (s.cfg.atomicOps = false →
          (i = .frameRead → step callByCall = .next { s₀ with inFlight := some .readCheck })
          ∧ (∀ n, i = .frameWrite n → step callByCall = .next { s₀ with inFlight := some (.writeCheck n) })
          ∧ (i ≠ .frameRead → (∀ n, i ≠ .frameWrite n) → step callByCall = exec i s₀)))
    ∧ ∀ n : Byte, decode cw = .error (.fletcherLength n) →
      step atomically = .refused (.fletcherLength n)
      ∧ (s.cfg.atomicOps = false → step callByCall = .refused (.fletcherLength n))

/-- R32, R200, R216: with no line left nothing happens ("the block never acts on its own"). That the model then answers
the same state again is its own choice (log entry 4). -/
def Obligations.NothingHappensWithoutACaller : Prop :=
  ∀ s : State, s.script = [] → step s = .next s

/-- R180 (c), R32: while an operation is in progress, a second one (invoked as one step or started call by call) and a
caller's write of IN or OUT have no step; and on a machine with atomic operations a call-by-call start has none at any
time. That these stop by name is the model's choice (log entry 6). -/
def Obligations.NoSecondOperationOrCallerWrite : Prop :=
  ∀ (s : State) (cw : CmdWord) (at_ : Nat) (bs : List Byte) (rest : List Event),
    (s.inFlight ≠ none →
      step { s with script := .command cw :: rest } = .refused .operationInProgress
      ∧ step { s with script := .writeIn at_ bs :: rest } = .refused .operationInProgress
      ∧ step { s with script := .writeOut at_ bs :: rest } = .refused .operationInProgress
      ∧ (s.cfg.atomicOps = false →
          step { s with script := .start cw :: rest } = .refused .operationInProgress))
    ∧ (s.cfg.atomicOps = true →
      step { s with script := .start cw :: rest } = .refused .operationsAreAtomic)

/-- R28: the caller's write of IN or OUT reaches exactly the bytes it names; between operations it always completes when
it stays in the 58 bytes. R85's script line writes from index 0; that one step writes a run of bytes from any index is
the model's reading of R28 (DEDUCED, log entry 9). -/
def Obligations.CallerWritesItsBuffers : Prop :=
  ∀ (s : State) (at_ : Nat) (bs : List Byte) (rest : List Event),
    s.inFlight = none → at_ + bs.length ≤ 58 →
    let wrote := fun new old : Memory =>
      ∀ a, Memory.read new a = if at_ ≤ a ∧ a < at_ + bs.length then bs.getD (a - at_) 0#8 else Memory.read old a
    (∃ m : Memory,
      step { s with script := .writeIn at_ bs :: rest }
        = .next { s with script := rest, result := none, inBuf := m } ∧ wrote m s.inBuf)
    ∧ ∃ m : Memory,
      step { s with script := .writeOut at_ bs :: rest }
        = .next { s with script := rest, result := none, outBuf := m } ∧ wrote m s.outBuf

/-- R50: RX_ARRIVE appends any bytes that fit in RX_DEPTH, and is no step when they do not. -/
def Obligations.RxArriveAppends : Prop :=
  ∀ (s : State) (bs : List Byte) (rest : List Event), s.script = .rxArrive bs :: rest →
    step s
      = if s.rxq.length + bs.length ≤ s.cfg.rxDepth then
          .next { s with script := rest, result := none, rxq := s.rxq ++ bs }
        else .refused .rxDepthExceeded

/-- R51: TX_DEPART m moves the first `m` bytes of TXQ to the end of LINE, for `1 ≤ m ≤ len(TXQ)` and no other `m`; and
`availableForWrite()` grows by `m`. That another `m` is refused by name is the model's choice (log entry 6). -/
def Obligations.TxDepartMovesToLine : Prop :=
  ∀ (s : State) (m : Nat) (rest : List Event), s.script = .txDepart m :: rest →
    (1 ≤ m ∧ m ≤ s.txq.length → ∃ (gone left : List Byte),
      s.txq = gone ++ left ∧ gone.length = m
      ∧ step s = .next { s with script := rest, result := none, line := s.line ++ gone, txq := left }
      ∧ (s.txq.length ≤ s.cfg.txDepth →
          s.cfg.txDepth - left.length = s.cfg.txDepth - s.txq.length + m))
    ∧ (¬(1 ≤ m ∧ m ≤ s.txq.length) → step s = .refused .txDepartCount)

/-- R51, R85: TX_DEPART all moves all of TXQ, in order, to the end of LINE and changes nothing else. With TXQ empty R85 has
no step; that the model's step then moves nothing is its own reading (DEDUCED, log entry 8). -/
def Obligations.TxDepartAllEmptiesTxq : Prop :=
  ∀ (s : State) (rest : List Event), s.script = .txDepartAll :: rest →
    step s = .next { s with script := rest, result := none, line := s.line ++ s.txq, txq := [] }

/-- R86: LOOPBACK is TX_DEPART all, then RX_ARRIVE of exactly the bytes that step moved, where they fit. -/
def Obligations.LoopbackIsDepartThenArrive : Prop :=
  ∀ (s : State) (rest : List Event), s.script = .loopback :: rest →
    s.rxq.length + s.txq.length ≤ s.cfg.rxDepth →
    Host.Core.run core 2 s
      = .next
          { s with
            script := rest
            result := none
            line := s.line ++ s.txq
            txq := []
            rxq := s.rxq ++ s.txq }

/-- R52: FIFO order is kept end to end: whatever the step, the bytes on LINE followed by those in TXQ are only ever
extended at their end. -/
def Obligations.OutboundOrderKept : Prop :=
  ∀ s t : State, step s = .next t → (s.line ++ s.txq) <+: (t.line ++ t.txq) ∧ s.line <+: t.line

/-- The "written by" column of R20, with R22, R24, R28 and R30: which lines of a script can change which state. -/
def Obligations.WhoWritesWhat : Prop :=
  ∀ (s t : State) (e : Event) (rest : List Event), s.script = e :: rest → step s = .next t →
    let runsRead := ∃ cw, (e = .command cw ∨ e = .start cw) ∧ decode cw = .ok .frameRead
    let runsWrite := ∃ cw n, (e = .command cw ∨ e = .start cw) ∧ decode cw = .ok (.frameWrite n)
    let goesOnReading := e = .advance ∧ ∃ f, s.inFlight = some f ∧ f.isRead = true
    let goesOnWriting := e = .advance ∧ ∃ f, s.inFlight = some f ∧ f.isRead = false
    t.cfg = s.cfg
    ∧ (t.rstat ≠ s.rstat → runsRead ∨ goesOnReading)
    ∧ (t.wstat ≠ s.wstat → runsWrite ∨ goesOnWriting)
    ∧ (t.outBuf ≠ s.outBuf → runsRead ∨ goesOnReading ∨ ∃ a bs, e = .writeOut a bs)
    ∧ (t.inBuf ≠ s.inBuf → ∃ a bs, e = .writeIn a bs)
    ∧ (t.rxq ≠ s.rxq → runsRead ∨ goesOnReading ∨ ∃ bs, e = .rxArrive bs)
    ∧ (t.txq ≠ s.txq → runsWrite ∨ goesOnWriting ∨ (∃ m, e = .txDepart m) ∨ e = .txDepartAll ∨ e = .loopback)
    ∧ (t.line ≠ s.line → (∃ m, e = .txDepart m) ∨ e = .txDepartAll ∨ e = .loopback)

/-- R20's sizes, R28, R32, R46, R48: the good states of Safety.lean are kept by every step. -/
def Obligations.EveryStepKeepsTheInvariant : Prop :=
  ∀ s t : State, s.Inv → step s = .next t → t.Inv

/-- R200: every machine is in a good state right after reset, whatever its parameters. -/
def Obligations.ResetIsGood : Prop :=
  (∀ c : Config, (State.resetWith c).Inv) ∧ State.reset.Inv

/-- R46, R48, R42, U1, U8, also for an operation run call by call with arrivals and departures between its calls: in a
good state no step faults. -/
def Obligations.GoodStatesNeverFault : Prop :=
  ∀ s : State, s.Inv → NoFault (step s)

/-- R216: the block has no halt. Every infinite sequence of operations that select a meaning is carried out by an infinite
run, from the reset state of any machine: a caller can poll for ever. -/
def Obligations.EveryOperationSequenceIsARun : Prop :=
  ∀ (c : Config) (op : Nat → Instr),
    (∀ i, (op i).wellFormed = true ∧ op i ≠ .reserved6 ∧ op i ≠ .reserved7) →
    ∃ σ : Nat → State, IsRun none σ ∧ σ 0 = State.resetWith c
      ∧ ∀ i, exec (op i) { σ i with result := none } = .next (σ (i + 1))

/-- R216: along every run, finite or infinite, from every reset state (any bytes in IN and OUT, any parameters), every
state is good, and no step from it faults, whatever lines are supplied. -/
def Obligations.EveryRunStaysGood : Prop :=
  ∀ (len : Option Nat) (σ : Nat → State), IsRun len σ →
    ∀ i, (∀ n, len = some n → i ≤ n) → (σ i).Inv ∧ ∀ more : List Event, NoFault (step ((σ i).supply more))

/-- R216: "a run ends where the script that drives it ends". The state after any number of steps from a reset state with
a script is the last state of a finite run from there; the model's idle steps (log entry 4) are no steps of it. -/
def Obligations.ScriptsDriveFiniteRuns : Prop :=
  ∀ (s t : State) (k : Nat), s.AtReset → Host.Core.run core k s = .next t →
    ∃ (n : Nat) (σ : Nat → State), n ≤ k ∧ IsRun (some n) σ ∧ σ 0 = s ∧ σ n = t

/-- R7, R202: from an empty channel, every legal frame can arrive exactly when RX_DEPTH is at least 63, and every legal
payload can be sent exactly when TX_DEPTH is at least 63. -/
def Obligations.FullFunctionNeedsDepth63 : Prop :=
  ∀ s : State, s.rxq = [] → s.txq = [] →
    ((∀ p : List Byte, p.length ≤ 58 → ∃ t : State, rxArrive (frame p) s = .next t) ↔ 63 ≤ s.cfg.rxDepth)
    ∧ ((∀ n : Byte, n.toNat ≤ 58 → ∃ t : State, exec (.frameWrite n) s = .next t ∧ t.wstat = .ok)
        ↔ 63 ≤ s.cfg.txDepth)

/-- U4, R122: on a machine whose operations are not atomic, FRAME_READ run call by call, with nothing between the calls,
ends in the very state the atomic operation ends in. -/
def Obligations.CallByCallReadAgrees : Prop :=
  ∀ (s t : State) (rest : List Event), s.cfg.atomicOps = false → s.inFlight = none →
    exec .frameRead { s with script := rest, result := none } = .next t →
    ∃ k : Nat,
      Host.Core.run core (k + 1)
          { s with script := .start (encode .frameRead) :: (List.replicate k Event.advance ++ rest) }
        = .next t

/-- U4, R152: the same for FRAME_WRITE n. -/
def Obligations.CallByCallWriteAgrees : Prop :=
  ∀ (n : Byte) (s t : State) (rest : List Event), s.cfg.atomicOps = false → s.inFlight = none →
    exec (.frameWrite n) { s with script := rest, result := none } = .next t →
    ∃ k : Nat,
      Host.Core.run core (k + 1)
          { s with script := .start (encode (.frameWrite n)) :: (List.replicate k Event.advance ++ rest) }
        = .next t

/-- The values the spec gives for reset: RSTAT, WSTAT, the queues and LINE (R200), RX_MIN_READY = 6 (R6), and the defaults
of OUT_ON_DATA_CHECKSUM (R7, U3) and ATOMIC_OPS (R7, R32, U4); that the reset state carries the parameters is log entry
5. Nothing runs until the caller invokes an operation (R200); that a step then answers the same state is log entry 4. -/
def Obligations.ResetValues : Prop :=
  State.reset.rstat = .ok ∧ State.reset.wstat = .ok ∧ State.reset.rxq = [] ∧ State.reset.txq = []
  ∧ State.reset.line = [] ∧ State.reset.inFlight = none ∧ State.reset.cfg.rxMinReady = .six
  ∧ State.reset.cfg.outOnDataChecksum = .unchanged ∧ State.reset.cfg.atomicOps = true
  ∧ step State.reset = .next State.reset
end

