-- ==== Sys2Proof/Laws/Memory.lean ====
section
/-! SUPPORT. The cells of IN and OUT: what a read gives after a write, and that every write keeps the canonical form. -/

namespace Sys2Proof.Machine

@[simp] theorem Memory.read_nil (i : Nat) : Memory.read [] i = unwrittenByte := rfl

theorem Memory.read_cons (k : Nat) (v : Byte) (t : Memory) (i : Nat) :
    Memory.read ((k, v) :: t) i = if k = i then v else Memory.read t i := rfl

theorem Memory.read_filter (m : Memory) (i j : Nat) :
    Memory.read (m.filter fun c => c.1 != i) j = if j = i then unwrittenByte else Memory.read m j := by
  induction m with
  | nil => simp
  | cons c t ih =>
    obtain ⟨k, v⟩ := c
    rw [List.filter_cons]
    by_cases hk : k = i
    · subst hk
      simp only [bne_self_eq_false, Bool.false_eq_true, ↓reduceIte, ih, Memory.read_cons]
      by_cases hj : j = k
      · simp [hj]
      · simp [hj, Ne.symm hj]
    · simp only [bne_iff_ne, ne_eq, hk, not_false_eq_true, ↓reduceIte, Memory.read_cons, ih]
      by_cases hj : k = j
      · simp [← hj, hk]
      · simp [hj]

theorem Memory.read_insert (m : Memory) (i j : Nat) (b : Byte) (free : ∀ c ∈ m, c.1 ≠ i) :
    Memory.read (Memory.insert i b m) j = if j = i then b else Memory.read m j := by
  induction m with
  | nil => simp [Memory.insert, Memory.read_cons, eq_comm]
  | cons c t ih =>
    obtain ⟨k, v⟩ := c
    have hk : k ≠ i := free (k, v) (by simp)
    have ih := ih fun c hc => free c (by simp [hc])
    unfold Memory.insert
    split
    · simp [Memory.read_cons, eq_comm]
    · simp only [Memory.read_cons, ih]
      by_cases hj : k = j
      · simp [← hj, hk]
      · simp [hj]

/-- A read after a write: the byte written at its own index, the old byte everywhere else. -/
theorem Memory.read_write (m : Memory) (i j : Nat) (b : Byte) :
    Memory.read (Memory.write m i b) j = if j = i then b else Memory.read m j := by
  unfold Memory.write
  split
  · rename_i hb
    simp only [Memory.read_filter, hb]
  · rw [Memory.read_insert, Memory.read_filter]
    · split <;> rfl
    · intro c hc
      simpa using (List.mem_filter.mp hc).2

/-- A read after a range was written: the range's byte inside it, the old byte outside. -/
theorem Memory.read_writeRange (m : Memory) (at_ : Nat) (bs : List Byte) (j : Nat) :
    Memory.read (Memory.writeRange m at_ bs) j
      = if at_ ≤ j ∧ j < at_ + bs.length then bs.getD (j - at_) 0#8 else Memory.read m j := by
  induction bs generalizing m at_ with
  | nil => simp only [Memory.writeRange, List.length_nil, Nat.add_zero]; rw [if_neg (by omega)]
  | cons b bs ih =>
    simp only [Memory.writeRange, ih, Memory.read_write, List.length_cons]
    by_cases h1 : at_ + 1 ≤ j ∧ j < at_ + 1 + bs.length
    · have : j - at_ = (j - (at_ + 1)) + 1 := by omega
      rw [if_pos h1, if_pos (by omega), this, List.getD_cons_succ]
    · rw [if_neg h1]
      by_cases h2 : j = at_
      · rw [if_pos h2, if_pos (by omega)]
        simp [h2]
      · rw [if_neg h2, if_neg (by omega)]

theorem Memory.readRange_eq_map (m : Memory) (at_ n : Nat) :
    Memory.readRange m at_ n = (List.range n).map fun i => Memory.read m (at_ + i) := by
  induction n generalizing at_ with
  | zero => rfl
  | succ n ih =>
    simp only [Memory.readRange, ih, List.range_succ_eq_map, List.map_cons, List.map_map, Nat.add_zero]
    congr 1
    apply List.map_congr_left
    intro i _
    simp [Nat.add_assoc, Nat.add_comm 1]

@[simp] theorem Memory.length_readRange (m : Memory) (at_ n : Nat) : (Memory.readRange m at_ n).length = n := by
  simp [Memory.readRange_eq_map]

/-! ### The canonical form -/

/-- The canonical form without its recursion: the indices rise, and every cell is in the buffer and listed for a reason. -/
theorem Memory.wf_iff (m : Memory) :
    Memory.wf m = true ↔
      m.Pairwise (fun c d => c.1 < d.1) ∧ ∀ c ∈ m, c.1 < maxPayload ∧ c.2 ≠ unwrittenByte := by
  match m with
  | [] => simp [Memory.wf]
  | [(k, v)] => simp [Memory.wf]
  | (k, v) :: (k', v') :: t =>
    have ih := Memory.wf_iff ((k', v') :: t)
    simp only [Memory.wf, Bool.and_eq_true, decide_eq_true_eq, bne_iff_ne, ih]
    constructor
    · rintro ⟨⟨hk, hv⟩, hp, hc⟩
      refine ⟨List.pairwise_cons.mpr ⟨?_, hp⟩, ?_⟩
      · intro c hcm
        rcases List.mem_cons.mp hcm with rfl | hct
        · exact hk
        · exact Nat.lt_trans hk ((List.pairwise_cons.mp hp).1 c hct)
      · intro c hcm
        rcases List.mem_cons.mp hcm with rfl | hct
        · exact ⟨Nat.lt_trans hk (hc (k', v') (by simp)).1, hv⟩
        · exact hc c hct
    · rintro ⟨hp, hc⟩
      exact ⟨⟨(List.pairwise_cons.mp hp).1 (k', v') (by simp), (hc (k, v) (by simp)).2⟩,
        (List.pairwise_cons.mp hp).2, fun c h => hc c (List.mem_cons_of_mem _ h)⟩

theorem Memory.mem_insert (m : Memory) (i : Nat) (b : Byte) (c : Host.Cell) :
    c ∈ Memory.insert i b m ↔ c = (i, b) ∨ c ∈ m := by
  induction m with
  | nil => simp [Memory.insert]
  | cons d t ih =>
    obtain ⟨k, v⟩ := d
    unfold Memory.insert
    split
    · simp
    · simp only [List.mem_cons, ih]; tauto

theorem Memory.pairwise_insert (m : Memory) (i : Nat) (b : Byte) (free : ∀ c ∈ m, c.1 ≠ i)
    (sorted : m.Pairwise fun c d => c.1 < d.1) :
    (Memory.insert i b m).Pairwise fun c d => c.1 < d.1 := by
  induction m with
  | nil => simp [Memory.insert]
  | cons d t ih =>
    obtain ⟨k, v⟩ := d
    have hk : k ≠ i := free (k, v) (by simp)
    obtain ⟨below, sorted'⟩ := List.pairwise_cons.mp sorted
    unfold Memory.insert
    split
    · rename_i hlt
      refine List.pairwise_cons.mpr ⟨?_, sorted⟩
      intro c hc
      rcases List.mem_cons.mp hc with rfl | hct
      · exact hlt
      · exact Nat.lt_trans hlt (below c hct)
    · refine List.pairwise_cons.mpr ⟨?_, ih (fun c hc => free c (by simp [hc])) sorted'⟩
      intro c hc
      rcases (Memory.mem_insert t i b c).mp hc with rfl | hct
      · simp only; omega
      · exact below c hct

/-- One byte written inside the buffer keeps the canonical form. -/
theorem Memory.wf_write (m : Memory) (i : Nat) (b : Byte) (h : Memory.wf m = true) (hi : i < maxPayload) :
    Memory.wf (Memory.write m i b) = true := by
  rw [Memory.wf_iff] at h ⊢
  obtain ⟨sorted, cells⟩ := h
  have sorted' := sorted.filter (p := fun c => c.1 != i)
  unfold Memory.write
  split
  · exact ⟨sorted', fun c hc => cells c (List.mem_filter.mp hc).1⟩
  · rename_i hb
    refine ⟨Memory.pairwise_insert _ i b ?_ sorted', ?_⟩
    · intro c hc
      simpa using (List.mem_filter.mp hc).2
    · intro c hc
      rcases (Memory.mem_insert _ i b c).mp hc with rfl | hcm
      · exact ⟨hi, hb⟩
      · exact cells c (List.mem_filter.mp hcm).1

/-- A range written inside the buffer keeps the canonical form. -/
theorem Memory.wf_writeRange (m : Memory) (at_ : Nat) (bs : List Byte) (h : Memory.wf m = true)
    (hn : at_ + bs.length ≤ maxPayload) : Memory.wf (Memory.writeRange m at_ bs) = true := by
  induction bs generalizing m at_ with
  | nil => exact h
  | cons b bs ih =>
    simp only [List.length_cons] at hn
    exact ih _ _ (Memory.wf_write m at_ b h (by omega)) (by omega)

/-- The buffers after reset are in canonical form. -/
theorem Memory.wf_reset (c : Config) :
    Memory.wf (State.resetWith c).outBuf = true ∧ Memory.wf (State.resetWith c).inBuf = true := ⟨rfl, rfl⟩

end Sys2Proof.Machine
end

