-- ==== Sys2Proof/Laws/Operands.lean ====
section
/-! SUPPORT. The small functions on bytes and words as arithmetic on natural numbers: one lemma per function. -/

namespace Sys2Proof.Machine

/-! ### The constants -/

@[simp] theorem startMarker_eq : startMarker = 170#8 := rfl
@[simp] theorem msgMaxBytes_eq : msgMaxBytes = 63 := rfl
@[simp] theorem hdrBytes_eq : hdrBytes = 5 := rfl
@[simp] theorem prefixBytes_eq : prefixBytes = 3 := rfl
@[simp] theorem maxPayload_eq : maxPayload = 58 := rfl
@[simp] theorem hsumMod_eq : hsumMod = 256 := rfl
@[simp] theorem flMod_eq : flMod = 255 := rfl
@[simp] theorem payloadLength_eq (L : Byte) : payloadLength L = L.toNat - 5 := rfl
@[simp] theorem totalLength_eq (n : Nat) : totalLength n = n + 5 := rfl

theorem minReadyCount_eq (c : RxMinReady) : minReadyCount c = if c = .six then 6 else 5 := by
  cases c <;> simp [minReadyCount]

/-! ### Bytes and 16-bit values -/

theorem hdrsum_toNat (a b : Byte) : (hdrsum a b).toNat = (a.toNat + b.toNat) % 256 := by simp [hdrsum]

theorem highByte_toNat (v : Word16) : (highByte v).toNat = v.toNat / 256 := by
  simp only [highByte, BitVec.extractLsb'_toNat, Nat.shiftRight_eq_div_pow]; omega

theorem lowByte_toNat (v : Word16) : (lowByte v).toNat = v.toNat % 256 := by
  simp only [lowByte, BitVec.extractLsb'_toNat, Nat.shiftRight_eq_div_pow]; omega

theorem joinBigEndian_toNat (hi lo : Byte) : (joinBigEndian hi lo).toNat = hi.toNat * 256 + lo.toNat := by
  simp only [joinBigEndian, BitVec.toNat_ofNat]; omega

/-- The two bytes of a value, joined again, are the value. -/
theorem joinBigEndian_high_low (v : Word16) : joinBigEndian (highByte v) (lowByte v) = v := by
  apply BitVec.eq_of_toNat_eq
  rw [joinBigEndian_toNat, highByte_toNat, lowByte_toNat]; omega

/-! ### The checksum and the frame -/

@[simp] theorem fletcherSums_nil : fletcherSums [] = (0, 0) := rfl

theorem fletcherSums_append_singleton (bs : List Byte) (x : Byte) :
    fletcherSums (bs ++ [x]) = fletcherStep (fletcherSums bs) x := by simp [fletcherSums]

@[simp] theorem length_frame (p : List Byte) : (frame p).length = p.length + 5 := by simp [frame]

end Sys2Proof.Machine

namespace Sys2Proof

/-! ### The command word -/

theorem commandWord_toNat (op : BitVec 3) (a b : Byte) :
    (commandWord op a b).toNat = op.toNat * 65536 + a.toNat * 256 + b.toNat := by
  simp only [commandWord, BitVec.toNat_ofNat]; omega

theorem opField_commandWord (op : BitVec 3) (a b : Byte) : opField (commandWord op a b) = op := by
  apply BitVec.eq_of_toNat_eq
  simp only [opField, BitVec.extractLsb'_toNat, commandWord_toNat, Nat.shiftRight_eq_div_pow]; omega

theorem aField_commandWord (op : BitVec 3) (a b : Byte) : aField (commandWord op a b) = a := by
  apply BitVec.eq_of_toNat_eq
  simp only [aField, BitVec.extractLsb'_toNat, commandWord_toNat, Nat.shiftRight_eq_div_pow]; omega

theorem bField_commandWord (op : BitVec 3) (a b : Byte) : bField (commandWord op a b) = b := by
  apply BitVec.eq_of_toNat_eq
  simp only [bField, BitVec.extractLsb'_toNat, commandWord_toNat, Nat.shiftRight_eq_div_pow]; omega

end Sys2Proof
end

