-- ==== Sys2Proof/Laws/State.lean ====
section
/-! SUPPORT. What each state update leaves in each field: one lemma per field per update, each true by definition. -/

namespace Sys2Proof.Machine

section drain
variable (s : State)

@[simp] theorem drain_cfg : (drain s).cfg = s.cfg := rfl
@[simp] theorem drain_rstat : (drain s).rstat = s.rstat := rfl
@[simp] theorem drain_wstat : (drain s).wstat = s.wstat := rfl
@[simp] theorem drain_outBuf : (drain s).outBuf = s.outBuf := rfl
@[simp] theorem drain_inBuf : (drain s).inBuf = s.inBuf := rfl
@[simp] theorem drain_rxq : (drain s).rxq = [] := rfl
@[simp] theorem drain_txq : (drain s).txq = s.txq := rfl
@[simp] theorem drain_line : (drain s).line = s.line := rfl
@[simp] theorem drain_inFlight : (drain s).inFlight = s.inFlight := rfl
@[simp] theorem drain_result : (drain s).result = s.result := rfl
@[simp] theorem drain_script : (drain s).script = s.script := rfl

end drain

section giveResult
variable (s : State) (r : OpResult)

@[simp] theorem giveResult_cfg : (giveResult r s).cfg = s.cfg := rfl
@[simp] theorem giveResult_rstat : (giveResult r s).rstat = s.rstat := rfl
@[simp] theorem giveResult_wstat : (giveResult r s).wstat = s.wstat := rfl
@[simp] theorem giveResult_outBuf : (giveResult r s).outBuf = s.outBuf := rfl
@[simp] theorem giveResult_inBuf : (giveResult r s).inBuf = s.inBuf := rfl
@[simp] theorem giveResult_rxq : (giveResult r s).rxq = s.rxq := rfl
@[simp] theorem giveResult_txq : (giveResult r s).txq = s.txq := rfl
@[simp] theorem giveResult_line : (giveResult r s).line = s.line := rfl
@[simp] theorem giveResult_inFlight : (giveResult r s).inFlight = s.inFlight := rfl
@[simp] theorem giveResult_result : (giveResult r s).result = some r := rfl
@[simp] theorem giveResult_script : (giveResult r s).script = s.script := rfl

end giveResult

section endRead
variable (s : State) (st : ReadStatus) (r : OkCount)

@[simp] theorem endRead_cfg : (endRead st r s).cfg = s.cfg := rfl
@[simp] theorem endRead_rstat : (endRead st r s).rstat = st := rfl
@[simp] theorem endRead_wstat : (endRead st r s).wstat = s.wstat := rfl
@[simp] theorem endRead_outBuf : (endRead st r s).outBuf = s.outBuf := rfl
@[simp] theorem endRead_inBuf : (endRead st r s).inBuf = s.inBuf := rfl
@[simp] theorem endRead_rxq : (endRead st r s).rxq = s.rxq := rfl
@[simp] theorem endRead_txq : (endRead st r s).txq = s.txq := rfl
@[simp] theorem endRead_line : (endRead st r s).line = s.line := rfl
@[simp] theorem endRead_inFlight : (endRead st r s).inFlight = s.inFlight := rfl
@[simp] theorem endRead_result : (endRead st r s).result = some (.frameRead r) := rfl
@[simp] theorem endRead_script : (endRead st r s).script = s.script := rfl

end endRead

section endWrite
variable (s : State) (st : WriteStatus) (r : OkCount)

@[simp] theorem endWrite_cfg : (endWrite st r s).cfg = s.cfg := rfl
@[simp] theorem endWrite_rstat : (endWrite st r s).rstat = s.rstat := rfl
@[simp] theorem endWrite_wstat : (endWrite st r s).wstat = st := rfl
@[simp] theorem endWrite_outBuf : (endWrite st r s).outBuf = s.outBuf := rfl
@[simp] theorem endWrite_inBuf : (endWrite st r s).inBuf = s.inBuf := rfl
@[simp] theorem endWrite_rxq : (endWrite st r s).rxq = s.rxq := rfl
@[simp] theorem endWrite_txq : (endWrite st r s).txq = s.txq := rfl
@[simp] theorem endWrite_line : (endWrite st r s).line = s.line := rfl
@[simp] theorem endWrite_inFlight : (endWrite st r s).inFlight = s.inFlight := rfl
@[simp] theorem endWrite_result : (endWrite st r s).result = some (.frameWrite r) := rfl
@[simp] theorem endWrite_script : (endWrite st r s).script = s.script := rfl

end endWrite

section failRead
variable (s : State) (st : ReadStatus)

@[simp] theorem failRead_cfg : (failRead st s).cfg = s.cfg := rfl
@[simp] theorem failRead_rstat : (failRead st s).rstat = st := rfl
@[simp] theorem failRead_wstat : (failRead st s).wstat = s.wstat := rfl
@[simp] theorem failRead_outBuf : (failRead st s).outBuf = s.outBuf := rfl
@[simp] theorem failRead_inBuf : (failRead st s).inBuf = s.inBuf := rfl
@[simp] theorem failRead_rxq : (failRead st s).rxq = [] := rfl
@[simp] theorem failRead_txq : (failRead st s).txq = s.txq := rfl
@[simp] theorem failRead_line : (failRead st s).line = s.line := rfl
@[simp] theorem failRead_inFlight : (failRead st s).inFlight = s.inFlight := rfl
@[simp] theorem failRead_result : (failRead st s).result = some (.frameRead failPair) := rfl
@[simp] theorem failRead_script : (failRead st s).script = s.script := rfl

end failRead

section failWrite
variable (s : State) (st : WriteStatus)

@[simp] theorem failWrite_cfg : (failWrite st s).cfg = s.cfg := rfl
@[simp] theorem failWrite_rstat : (failWrite st s).rstat = s.rstat := rfl
@[simp] theorem failWrite_wstat : (failWrite st s).wstat = st := rfl
@[simp] theorem failWrite_outBuf : (failWrite st s).outBuf = s.outBuf := rfl
@[simp] theorem failWrite_inBuf : (failWrite st s).inBuf = s.inBuf := rfl
@[simp] theorem failWrite_rxq : (failWrite st s).rxq = s.rxq := rfl
@[simp] theorem failWrite_txq : (failWrite st s).txq = s.txq := rfl
@[simp] theorem failWrite_line : (failWrite st s).line = s.line := rfl
@[simp] theorem failWrite_inFlight : (failWrite st s).inFlight = s.inFlight := rfl
@[simp] theorem failWrite_result : (failWrite st s).result = some (.frameWrite failPair) := rfl
@[simp] theorem failWrite_script : (failWrite st s).script = s.script := rfl

end failWrite

section hold
variable (s : State) (f : InFlight)

@[simp] theorem hold_cfg : (hold f s).cfg = s.cfg := rfl
@[simp] theorem hold_rstat : (hold f s).rstat = s.rstat := rfl
@[simp] theorem hold_wstat : (hold f s).wstat = s.wstat := rfl
@[simp] theorem hold_outBuf : (hold f s).outBuf = s.outBuf := rfl
@[simp] theorem hold_inBuf : (hold f s).inBuf = s.inBuf := rfl
@[simp] theorem hold_rxq : (hold f s).rxq = s.rxq := rfl
@[simp] theorem hold_txq : (hold f s).txq = s.txq := rfl
@[simp] theorem hold_line : (hold f s).line = s.line := rfl
@[simp] theorem hold_inFlight : (hold f s).inFlight = some f := rfl
@[simp] theorem hold_result : (hold f s).result = s.result := rfl
@[simp] theorem hold_script : (hold f s).script = s.script := rfl

end hold

section release
variable (s : State)

@[simp] theorem release_cfg : (release s).cfg = s.cfg := rfl
@[simp] theorem release_rstat : (release s).rstat = s.rstat := rfl
@[simp] theorem release_wstat : (release s).wstat = s.wstat := rfl
@[simp] theorem release_outBuf : (release s).outBuf = s.outBuf := rfl
@[simp] theorem release_inBuf : (release s).inBuf = s.inBuf := rfl
@[simp] theorem release_rxq : (release s).rxq = s.rxq := rfl
@[simp] theorem release_txq : (release s).txq = s.txq := rfl
@[simp] theorem release_line : (release s).line = s.line := rfl
@[simp] theorem release_inFlight : (release s).inFlight = none := rfl
@[simp] theorem release_result : (release s).result = s.result := rfl
@[simp] theorem release_script : (release s).script = s.script := rfl

end release

section beginDrain
variable (s : State) (st : ReadStatus)

@[simp] theorem beginDrain_cfg : (beginDrain st s).cfg = s.cfg := rfl
@[simp] theorem beginDrain_rstat : (beginDrain st s).rstat = st := rfl
@[simp] theorem beginDrain_wstat : (beginDrain st s).wstat = s.wstat := rfl
@[simp] theorem beginDrain_outBuf : (beginDrain st s).outBuf = s.outBuf := rfl
@[simp] theorem beginDrain_inBuf : (beginDrain st s).inBuf = s.inBuf := rfl
@[simp] theorem beginDrain_rxq : (beginDrain st s).rxq = s.rxq := rfl
@[simp] theorem beginDrain_txq : (beginDrain st s).txq = s.txq := rfl
@[simp] theorem beginDrain_line : (beginDrain st s).line = s.line := rfl
@[simp] theorem beginDrain_inFlight : (beginDrain st s).inFlight = some .drainCheck := rfl
@[simp] theorem beginDrain_result : (beginDrain st s).result = s.result := rfl
@[simp] theorem beginDrain_script : (beginDrain st s).script = s.script := rfl

end beginDrain

section moveToLine
variable (s : State) (m : Nat)

@[simp] theorem moveToLine_cfg : (moveToLine m s).cfg = s.cfg := rfl
@[simp] theorem moveToLine_rstat : (moveToLine m s).rstat = s.rstat := rfl
@[simp] theorem moveToLine_wstat : (moveToLine m s).wstat = s.wstat := rfl
@[simp] theorem moveToLine_outBuf : (moveToLine m s).outBuf = s.outBuf := rfl
@[simp] theorem moveToLine_inBuf : (moveToLine m s).inBuf = s.inBuf := rfl
@[simp] theorem moveToLine_rxq : (moveToLine m s).rxq = s.rxq := rfl
@[simp] theorem moveToLine_txq : (moveToLine m s).txq = s.txq.drop m := rfl
@[simp] theorem moveToLine_line : (moveToLine m s).line = s.line ++ s.txq.take m := rfl
@[simp] theorem moveToLine_inFlight : (moveToLine m s).inFlight = s.inFlight := rfl
@[simp] theorem moveToLine_result : (moveToLine m s).result = s.result := rfl
@[simp] theorem moveToLine_script : (moveToLine m s).script = s.script := rfl

end moveToLine

section beginStep
variable (s : State) (rest : List Event)

@[simp] theorem beginStep_cfg : (beginStep rest s).cfg = s.cfg := rfl
@[simp] theorem beginStep_rstat : (beginStep rest s).rstat = s.rstat := rfl
@[simp] theorem beginStep_wstat : (beginStep rest s).wstat = s.wstat := rfl
@[simp] theorem beginStep_outBuf : (beginStep rest s).outBuf = s.outBuf := rfl
@[simp] theorem beginStep_inBuf : (beginStep rest s).inBuf = s.inBuf := rfl
@[simp] theorem beginStep_rxq : (beginStep rest s).rxq = s.rxq := rfl
@[simp] theorem beginStep_txq : (beginStep rest s).txq = s.txq := rfl
@[simp] theorem beginStep_line : (beginStep rest s).line = s.line := rfl
@[simp] theorem beginStep_inFlight : (beginStep rest s).inFlight = s.inFlight := rfl
@[simp] theorem beginStep_result : (beginStep rest s).result = none := rfl
@[simp] theorem beginStep_script : (beginStep rest s).script = rest := rfl

end beginStep

section resetWith
variable (c : Config)

@[simp] theorem resetWith_cfg : (State.resetWith c).cfg = c := rfl
@[simp] theorem resetWith_rstat : (State.resetWith c).rstat = .ok := rfl
@[simp] theorem resetWith_wstat : (State.resetWith c).wstat = .ok := rfl
@[simp] theorem resetWith_outBuf : (State.resetWith c).outBuf = [] := rfl
@[simp] theorem resetWith_inBuf : (State.resetWith c).inBuf = [] := rfl
@[simp] theorem resetWith_rxq : (State.resetWith c).rxq = [] := rfl
@[simp] theorem resetWith_txq : (State.resetWith c).txq = [] := rfl
@[simp] theorem resetWith_line : (State.resetWith c).line = [] := rfl
@[simp] theorem resetWith_inFlight : (State.resetWith c).inFlight = none := rfl
@[simp] theorem resetWith_result : (State.resetWith c).result = none := rfl
@[simp] theorem resetWith_script : (State.resetWith c).script = [] := rfl

end resetWith

end Sys2Proof.Machine
end

