-- ==== Sys2Proof/Laws/Ops.lean ====
section
/-! SUPPORT. What each shared operation can do: one lemma per operation, to be cited instead of unfolding it. -/

namespace Sys2Proof.Machine

/-! ### Sequencing -/

@[simp] theorem andThen_ok {α : Type} (a : α) (k : α → StepOutcome) : andThen (.ok a) k = k a := rfl

@[simp] theorem andThen_error {α : Type} (f : Fault) (k : α → StepOutcome) :
    andThen (.error f) k = .fault f := rfl

/-- A sequence that answers a next state ran its first part without a fault. -/
theorem andThen_eq_next {α : Type} {r : Except Fault α} {k : α → StepOutcome} {t : State}
    (h : andThen r k = .next t) : ∃ a, r = .ok a ∧ k a = .next t := by
  cases r with
  | ok a => exact ⟨a, rfl, h⟩
  | error f => cases h

/-! ### The channel calls -/

/-- `readByte` with a byte ready gives the head and leaves the rest. -/
theorem readByte_cons {s : State} {b : Byte} {rest : List Byte} (h : s.rxq = b :: rest) :
    readByte s = .ok (b, { s with rxq := rest }) := by simp [readByte, h]

theorem readByte_nil {s : State} (h : s.rxq = []) : readByte s = .error .readByteEmpty := by simp [readByte, h]

/-- `readByte` that answers a byte took the head of RXQ. -/
theorem readByte_eq_ok {s s' : State} {b : Byte} (h : readByte s = .ok (b, s')) :
    ∃ rest, s.rxq = b :: rest ∧ s' = { s with rxq := rest } := by
  cases hq : s.rxq with
  | nil => simp [readByte, hq] at h
  | cons c rest =>
    rw [readByte_cons hq] at h
    cases h
    exact ⟨rest, rfl, rfl⟩

/-- `n` reads with `n` bytes ready give the first `n` bytes and leave the others. -/
theorem readBytes_of_le (n : Nat) (s : State) (h : n ≤ s.rxq.length) :
    readBytes n s = .ok (s.rxq.take n, { s with rxq := s.rxq.drop n }) := by
  induction n generalizing s with
  | zero => simp [readBytes]
  | succ n ih =>
    cases hq : s.rxq with
    | nil => simp [hq] at h
    | cons b rest =>
      simp only [hq, List.length_cons, Nat.add_le_add_iff_right] at h
      simp [readBytes, readByte_cons hq, ih { s with rxq := rest } h]

/-- `writeByte` with room appends the byte and returns 1. -/
theorem writeByte_of_room {b : Byte} {s : State} (h : s.txq.length < s.cfg.txDepth) :
    writeByte b s = .ok (1, { s with txq := s.txq ++ [b] }) := by
  have : 0 < availableForWrite s := by simp only [availableForWrite]; omega
  simp [writeByte, this]

/-- `writeByte` that succeeds had room, appended the byte and returned 1. -/
theorem writeByte_eq_ok {b : Byte} {k : Nat} {s s' : State} (h : writeByte b s = .ok (k, s')) :
    s.txq.length < s.cfg.txDepth ∧ k = 1 ∧ s' = { s with txq := s.txq ++ [b] } := by
  unfold writeByte availableForWrite at h
  split at h
  · cases h; exact ⟨by omega, rfl, rfl⟩
  · cases h

/-- `writeBytes` with room for all its bytes appends them in order and returns how many they are. -/
theorem writeBytes_of_room (bs : List Byte) (s : State) (h : bs.length ≤ availableForWrite s) :
    writeBytes bs s = .ok (bs.length, { s with txq := s.txq ++ bs }) := by
  induction bs generalizing s with
  | nil => simp [writeBytes]
  | cons b bs ih =>
    simp only [availableForWrite, List.length_cons] at h
    rw [writeBytes, writeByte_of_room (by omega)]
    simp only
    rw [ih]
    · simp [Nat.add_comm]
    · simp [availableForWrite]; omega

/-! ### The buffers -/

theorem loadIn_of_le {n : Nat} {s : State} (h : n ≤ 58) : loadIn n s = .ok (Memory.readRange s.inBuf 0 n) :=
  if_pos h

theorem storeOut_of_le {P : List Byte} {s : State} (h : P.length ≤ 58) :
    storeOut P s = .ok { s with outBuf := Memory.writeRange s.outBuf 0 P } := if_pos h

/-- `storeOut` that succeeds had room in OUT. -/
theorem storeOut_eq_ok {P : List Byte} {s s' : State} (h : storeOut P s = .ok s') :
    P.length ≤ 58 ∧ s' = { s with outBuf := Memory.writeRange s.outBuf 0 P } := by
  unfold storeOut at h
  split at h
  · rename_i hp; cases h; exact ⟨hp, rfl⟩
  · cases h

/-- `rejectPayload` leaves OUT alone or writes the payload there, as OUT_ON_DATA_CHECKSUM says. -/
theorem rejectPayload_of_le {P : List Byte} {s : State} (h : P.length ≤ 58) :
    rejectPayload P s
      = .ok { s with
          outBuf := if s.cfg.outOnDataChecksum = .unchanged then s.outBuf
            else Memory.writeRange s.outBuf 0 P } := by
  unfold rejectPayload
  cases hc : s.cfg.outOnDataChecksum with
  | unchanged => simp
  | payloadWritten => simp [storeOut_of_le h]

/-- Step 9 with a payload that fits always completes, with DATA_CHECKSUM or with OK. -/
theorem deliver_of_le {L : Byte} {CK : Word16} {P : List Byte} {s : State} (h : P.length ≤ 58) :
    deliver L CK P s
      = .next
          (if fletcher16 P = CK then
            endRead .ok (okPair (payloadLength L)) { s with outBuf := Memory.writeRange s.outBuf 0 P }
          else
            endRead .dataChecksum failPair
              { s with
                outBuf := if s.cfg.outOnDataChecksum = .unchanged then s.outBuf
                  else Memory.writeRange s.outBuf 0 P }) := by
  unfold deliver
  by_cases hc : fletcher16 P = CK
  · simp [hc, storeOut_of_le h]
  · simp [hc, rejectPayload_of_le h]

/-! ### The tests of the parser -/

/-- The test of step 6 fails for every ready count but `L - 3`. -/
theorem countDiffers_iff {n : Nat} {L : Byte} : countDiffers n L ↔ n + 3 ≠ L.toNat := by
  unfold countDiffers prefixBytes; omega

/-- The prefix passes exactly when the marker, the length bound and the header checksum are right. -/
theorem prefixStatus_eq_none {S L H : Byte} :
    prefixStatus S L H = none ↔ S = startMarker ∧ L.toNat ≤ 63 ∧ H = hdrsum S L := by
  unfold prefixStatus msgMaxBytes
  split <;> [skip; split <;> [skip; split]] <;> simp_all

end Sys2Proof.Machine
end

