-- ==== Sys2Proof/Laws/PerInstr.lean ====
section
/-! SUPPORT. Facts about every operation as syntax, one lemma per constructor. Family OpBits: the `op` bits of the
canonical word are the row's code in R82's table. -/

namespace Sys2Proof.Laws.OpBits

/-- The `op` column of R82. -/
def opCode : Instr → BitVec 3
  | .hdrsum _ _ => 0b000#3
  | .fletcher16 _ => 0b001#3
  | .frameRead => 0b010#3
  | .frameWrite _ => 0b011#3
  | .rstatGet => 0b100#3
  | .wstatGet => 0b101#3
  | .reserved6 => 0b110#3
  | .reserved7 => 0b111#3

/-- Bits 18:16 of the canonical word are the operation's code. -/
def Statement (i : Instr) : Prop := opField (encode i) = opCode i

theorem hdrsum (a b : Byte) : Statement (.hdrsum a b) := opField_commandWord _ _ _
theorem fletcher16 (n : Byte) : Statement (.fletcher16 n) := opField_commandWord _ _ _
theorem frameRead : Statement .frameRead := opField_commandWord _ _ _
theorem frameWrite (n : Byte) : Statement (.frameWrite n) := opField_commandWord _ _ _
theorem rstatGet : Statement .rstatGet := opField_commandWord _ _ _
theorem wstatGet : Statement .wstatGet := opField_commandWord _ _ _
theorem reserved6 : Statement .reserved6 := opField_commandWord _ _ _
theorem reserved7 : Statement .reserved7 := opField_commandWord _ _ _

end Sys2Proof.Laws.OpBits
end

