-- ==== Sys2Proof/Laws/Run.lean ====
section
/-! SUPPORT. The induction along a run, packaged once, and the small lemmas of the lines supplied to it. -/

namespace Sys2Proof.Machine

variable (s : State) (more : List Event)

@[simp] theorem supply_cfg : (s.supply more).cfg = s.cfg := rfl
@[simp] theorem supply_rstat : (s.supply more).rstat = s.rstat := rfl
@[simp] theorem supply_wstat : (s.supply more).wstat = s.wstat := rfl
@[simp] theorem supply_outBuf : (s.supply more).outBuf = s.outBuf := rfl
@[simp] theorem supply_inBuf : (s.supply more).inBuf = s.inBuf := rfl
@[simp] theorem supply_rxq : (s.supply more).rxq = s.rxq := rfl
@[simp] theorem supply_txq : (s.supply more).txq = s.txq := rfl
@[simp] theorem supply_line : (s.supply more).line = s.line := rfl
@[simp] theorem supply_inFlight : (s.supply more).inFlight = s.inFlight := rfl
@[simp] theorem supply_result : (s.supply more).result = s.result := rfl
@[simp] theorem supply_script : (s.supply more).script = s.script ++ more := rfl
@[simp] theorem supply_nil : s.supply [] = s := by simp [State.supply]

/-- A step of the machine that takes a line is a step of a run. -/
theorem stepsTo_of_step {s t : State} (line : s.script ≠ []) (h : step s = .next t) : StepsTo s t :=
  ⟨[], by simpa using line, by simpa using h⟩

/-- What holds right after reset and is kept by every step of a run holds all along the run. -/
theorem IsRun.induction {P : State → Prop} {len : Option Nat} {σ : Nat → State} (run : IsRun len σ)
    (atReset : ∀ s : State, s.AtReset → P s) (keeps : ∀ s t : State, P s → StepsTo s t → P t) :
    ∀ i, (∀ n, len = some n → i ≤ n) → P (σ i)
  | 0, _ => atReset _ run.1
  | i + 1, within =>
    keeps _ _ (run.induction atReset keeps i fun n h => Nat.le_of_succ_le (within n h)) (run.2 i within)

end Sys2Proof.Machine
end

