-- ==== Sys2Proof/Laws/Step.lean ====
section
/-! SUPPORT. What the lines of a script and the parts of a step can do: one inversion lemma per function that can
refuse, and what each line of a script runs. -/

namespace Sys2Proof.Machine

/-! ### A step -/

/-- A step takes the next line and runs it. -/
theorem step_cons {s : State} {e : Event} {rest : List Event} (h : s.script = e :: rest) :
    step s = runEvent e (beginStep rest s) := by simp [step, h]


/-! ### The caller's lines -/

/-- A refused word never answers a next state. -/
theorem refuseWord_ne_next (e : DecodeError) (t : State) : refuseWord e ≠ .next t := by cases e; simp [refuseWord]

/-- An atomic invocation that completes is `exec` of the decoded operation, between operations. -/
theorem runCommand_eq_next {cw : CmdWord} {s t : State} (h : runCommand cw s = .next t) :
    s.inFlight = none ∧ ∃ i, decode cw = .ok i ∧ exec i s = .next t := by
  unfold runCommand at h
  split at h
  · cases h
  · rename_i idle
    refine ⟨by simpa using idle, ?_⟩
    split at h
    · exact absurd h (refuseWord_ne_next _ _)
    · exact ⟨_, ‹_›, h⟩

/-- A call-by-call invocation that completes is an operation with no channel call, run whole, or one now in progress. -/
theorem startCommand_eq_next {cw : CmdWord} {s t : State} (h : startCommand cw s = .next t) :
    s.cfg.atomicOps = false ∧ s.inFlight = none ∧
      ∃ i, decode cw = .ok i ∧
        ((firstCall i = none ∧ exec i s = .next t) ∨ ∃ f, firstCall i = some f ∧ t = hold f s) := by
  unfold startCommand at h
  split at h
  · cases h
  · rename_i fine
    split at h
    · cases h
    · rename_i idle
      refine ⟨by simpa using fine, by simpa using idle, ?_⟩
      split at h
      · exact absurd h (refuseWord_ne_next _ _)
      · rename_i i dec
        refine ⟨i, dec, ?_⟩
        split at h
        · exact .inl ⟨‹_›, h⟩
        · exact .inr ⟨_, ‹_›, by simpa using h.symm⟩

/-- A caller's write of IN that completes stays in the buffer. -/
theorem callerWriteIn_eq_next {at_ : Nat} {bs : List Byte} {s t : State} (h : callerWriteIn at_ bs s = .next t) :
    s.inFlight = none ∧ at_ + bs.length ≤ maxPayload
      ∧ t = { s with inBuf := Memory.writeRange s.inBuf at_ bs } := by
  unfold callerWriteIn at h
  split at h
  · cases h
  · rename_i idle
    split at h
    · exact ⟨by simpa using idle, ‹_›, by simpa using h.symm⟩
    · cases h

/-- A caller's write of OUT that completes stays in the buffer. -/
theorem callerWriteOut_eq_next {at_ : Nat} {bs : List Byte} {s t : State} (h : callerWriteOut at_ bs s = .next t) :
    s.inFlight = none ∧ at_ + bs.length ≤ maxPayload
      ∧ t = { s with outBuf := Memory.writeRange s.outBuf at_ bs } := by
  unfold callerWriteOut at h
  split at h
  · cases h
  · rename_i idle
    split at h
    · exact ⟨by simpa using idle, ‹_›, by simpa using h.symm⟩
    · cases h

/-! ### The environment's lines -/

/-- An arrival that completes fits. -/
theorem rxArrive_eq_next {bs : List Byte} {s t : State} (h : rxArrive bs s = .next t) :
    s.rxq.length + bs.length ≤ s.cfg.rxDepth ∧ t = { s with rxq := s.rxq ++ bs } := by
  unfold rxArrive at h
  split at h
  · exact ⟨‹_›, by simpa using h.symm⟩
  · cases h

/-- A departure that completes is of bytes that are there. -/
theorem txDepart_eq_next {m : Nat} {s t : State} (h : txDepart m s = .next t) :
    1 ≤ m ∧ m ≤ s.txq.length ∧ t = moveToLine m s := by
  unfold txDepart at h
  split at h
  · exact ⟨(‹_ ∧ _› : _ ∧ _).1, (‹_ ∧ _› : _ ∧ _).2, by simpa using h.symm⟩
  · cases h

/-- Departures move bytes and lose none. -/
theorem moveToLine_line_append_txq (m : Nat) (s : State) :
    (moveToLine m s).line ++ (moveToLine m s).txq = s.line ++ s.txq := by
  simp [moveToLine]

/-! ### The assembler's tests -/

/-- FRAME_WRITE passes its two tests exactly when the frame fits both the room left and the format. -/
theorem writeCheckStatus_eq_none {n : Byte} {s : State} :
    writeCheckStatus n s = none ↔ n.toNat + 5 ≤ availableForWrite s ∧ n.toNat ≤ 58 := by
  unfold writeCheckStatus
  split
  · simp_all
  · split <;> simp_all; omega

end Sys2Proof.Machine
end

