-- ==== Sys2Proof/Tests/Slice0.lean ====
section
/-! SUPPORT. The model's own tests: the well-formedness check, one written-out word per operation, one-step runs whose
expected values are the vectors of 95_test_vectors.md, and for every statement with hypotheses a state and operands
that meet them. -/

namespace Sys2Proof.Tests

open Sys2Proof.Machine

/-! ### Small states and what is looked at -/

/-- Reset, with given bytes ready (the `RX_ARRIVE` of a vector of part 2.4). -/
def ready (q : List Byte) : State := { State.reset with rxq := q }

/-- Reset, with a payload in IN. -/
def loaded (p : List Byte) : State := { State.reset with inBuf := Memory.writeRange [] 0 p }

/-- Reset, with a script. -/
def scripted (es : List Event) : State := { State.reset with script := es }

/-- A machine like the reset one but for its TX_DEPTH. -/
def txRoom (d : Nat) : State := State.resetWith { Config.standard with txDepth := d }

/-- A machine like the reset one but with RX_MIN_READY = 5. -/
def pollsAtFive : State := State.resetWith { Config.standard with rxMinReady := .five }

/-- A machine like the reset one but whose operations are run call by call. -/
def callByCall : State := State.resetWith { Config.standard with atomicOps := false }

/-- The frame of X1, of 8 bytes. -/
def x1 : List Byte := [170#8, 8#8, 178#8, 48#8, 24#8, 1#8, 22#8, 1#8]

/-- The shortest receivable frame (VE3). -/
def ve3 : List Byte := [170#8, 6#8, 176#8, 7#8, 7#8, 7#8]

/-- The next state, if there is one. -/
def after : StepOutcome → Option State
  | .next t => some t
  | .fault _ => none
  | .refused _ => none

/-- The result an outcome hands the caller. -/
def resultOf (o : StepOutcome) : Option OpResult := (after o).bind State.result

/-- The refusal an outcome is. -/
def refusalOf : StepOutcome → Option Refusal
  | .next _ => none
  | .fault _ => none
  | .refused r => some r

/-- RSTAT and the result of FRAME_READ on given bytes ready. -/
def poll (q : List Byte) : Option (ReadStatus × Option OpResult) :=
  (after (exec .frameRead (ready q))).map fun t => (t.rstat, t.result)

/-- WSTAT and the result of FRAME_WRITE n at a state. -/
def send (n : Byte) (s : State) : Option (WriteStatus × Option OpResult) :=
  (after (exec (.frameWrite n) s)).map fun t => (t.wstat, t.result)

/-! ### Well-formedness: the one check -/

theorem test_wellFormed_refuses_fletcher16_59 : Instr.wellFormed (.fletcher16 59#8) = false := by decide
theorem test_wellFormed_takes_fletcher16_58 : Instr.wellFormed (.fletcher16 58#8) = true := by decide

/-! ### Decoding: words written out as `op`, `a`, `b` (R81, R82) -/

theorem test_decode_hdrsum : decode (0b000#3 ++ 0b10101010#8 ++ 0b00001000#8) = .ok (.hdrsum 170#8 8#8) := by decide
theorem test_decode_fletcher16 : decode (0b001#3 ++ 0b11111111#8 ++ 0b00111010#8) = .ok (.fletcher16 58#8) := by decide
theorem test_decode_frameRead : decode (0b010#3 ++ 0b10000000#8 ++ 0b00000001#8) = .ok .frameRead := by decide
theorem test_decode_frameWrite : decode (0b011#3 ++ 0b01010101#8 ++ 0b11111111#8) = .ok (.frameWrite 255#8) := by decide
theorem test_decode_rstatGet : decode (0b100#3 ++ 0b10101011#8 ++ 0b11001101#8) = .ok .rstatGet := by decide
theorem test_decode_wstatGet : decode (0b101#3 ++ 0b00000001#8 ++ 0b00000000#8) = .ok .wstatGet := by decide
theorem test_decode_reserved6 : decode (0b110#3 ++ 0b00000000#8 ++ 0b00000000#8) = .ok .reserved6 := by decide
theorem test_decode_reserved7 : decode (0b111#3 ++ 0b11111111#8 ++ 0b11111111#8) = .ok .reserved7 := by decide
theorem test_decode_rejects_fletcher16_59 :
    decode (0b001#3 ++ 0b00000000#8 ++ 0b00111011#8) = .error (.fletcherLength 59#8) := by decide
theorem test_encode_frameWrite : encode (.frameWrite 3#8) = 0x30003#19 := by decide
theorem test_decodeTableWord : decodeTableWord 24 0x30003 = some (.frameWrite 3#8) := by decide
theorem test_withFetchWord :
    resultOf (step (State.reset.withFetchWord 24 0x0AA08)) = some (.byte 178#8) := by decide

/-! ### One step per vector -/

/-- VH1. -/
theorem test_hdrsum_vh1 : resultOf (exec (.hdrsum 170#8 8#8) State.reset) = some (.byte 178#8) := by decide
/-- VH6: 510 mod 256. -/
theorem test_hdrsum_vh6 : resultOf (exec (.hdrsum 255#8 255#8) State.reset) = some (.byte 254#8) := by decide
/-- VF16. -/
theorem test_fletcher16_vf16 :
    resultOf (exec (.fletcher16 3#8) (loaded [1#8, 22#8, 1#8])) = some (.word 0x3018#16) := by decide
/-- VF22: both sums wrap. -/
theorem test_fletcher16_vf22 :
    resultOf (exec (.fletcher16 3#8) (loaded [200#8, 100#8, 50#8])) = some (.word 0x555F#16) := by decide
/-- VR8: X1 decoded, with `OUT[0..3)` written. -/
theorem test_frameRead_vr8 :
    (after (exec .frameRead (ready x1))).map (fun t => (t.rstat, t.result, Memory.readRange t.outBuf 0 4, t.rxq))
      = some (.ok, some (.frameRead ⟨true, 3#8⟩), [1#8, 22#8, 1#8, 0#8], []) := by decide
/-- VR21: the checksum low byte first. -/
theorem test_frameRead_vr21 :
    poll [170#8, 8#8, 178#8, 24#8, 48#8, 1#8, 22#8, 1#8]
      = some (.dataChecksum, some (.frameRead ⟨false, 0#8⟩)) := by decide
/-- VW1: X1 encoded. -/
theorem test_frameWrite_vw1 :
    (after (exec (.frameWrite 3#8) (loaded [1#8, 22#8, 1#8]))).map (fun t => (t.wstat, t.result, t.txq))
      = some (.ok, some (.frameWrite ⟨true, 8#8⟩), x1) := by decide
/-- VW14: 251 + 5 is not wrapped to 0. -/
theorem test_frameWrite_vw14 :
    send 251#8 (txRoom 300) = some (.messageTooLong, some (.frameWrite ⟨false, 0#8⟩)) := by decide
/-- VS3: the code 2 after VR9. -/
theorem test_rstatGet_vs3 :
    resultOf (exec .rstatGet { State.reset with rstat := .startByteNotRecognized }) = some (.readStatus 2#3) := by
  decide
/-- VS5: the code 2 after VW4. -/
theorem test_wstatGet_vs5 :
    resultOf (exec .wstatGet { State.reset with wstat := .messageTooLong }) = some (.writeStatus 2#2) := by decide
/-- VS7. -/
theorem test_reserved6_vs7 : refusalOf (step (scripted [.command 0x60000#19])) = some .reservedOp6 := by decide
/-- VS7. -/
theorem test_reserved7_vs7 : refusalOf (step (scripted [.command 0x70000#19])) = some .reservedOp7 := by decide

/-- The other rows of the rejection table, one vector each: VR3, VR10, VR11, VR12, VR16. -/
theorem test_frameRead_rejections :
    poll [] = some (.notEnoughBytes, some (.frameRead ⟨false, 0#8⟩))
    ∧ poll (0#8 :: x1) = some (.startByteNotRecognized, some (.frameRead ⟨false, 0#8⟩))
    ∧ poll [170#8, 64#8, 234#8, 0#8, 0#8, 0#8] = some (.length, some (.frameRead ⟨false, 0#8⟩))
    ∧ poll [170#8, 8#8, 179#8, 48#8, 24#8, 1#8, 22#8, 1#8]
        = some (.headerChecksum, some (.frameRead ⟨false, 0#8⟩))
    ∧ poll [170#8, 0#8, 170#8, 0#8, 0#8, 0#8]
        = some (.dataLessThanLength, some (.frameRead ⟨false, 0#8⟩)) := by decide

/-- VW4 and VW5: the space test comes first. -/
theorem test_frameWrite_order :
    send 59#8 (txRoom 64) = some (.messageTooLong, some (.frameWrite ⟨false, 0#8⟩))
    ∧ send 59#8 (txRoom 63) = some (.noBufferSpace, some (.frameWrite ⟨false, 0#8⟩)) := by decide

/-- The counts of R48 and R49, and the bytes in index order. -/
theorem test_channel_write_counts :
    writeByte 9#8 (txRoom 1) = .ok (1, { txRoom 1 with txq := [9#8] })
    ∧ writeBytes [1#8, 2#8, 3#8] (txRoom 3) = .ok (3, { txRoom 3 with txq := [1#8, 2#8, 3#8] })
    ∧ writeByte 9#8 (txRoom 0) = .error .writeByteFull := by decide

/-- The canonical form: writing back what an unlisted index reads as removes the cell. -/
theorem test_memory_canonical : Memory.write (Memory.write [] 3 9#8) 3 unwrittenByte = [] := by decide

/-! ### Witnesses: concrete states and operands that meet each statement's hypotheses -/

theorem witness_DecodeOfEncode :
    (Instr.fletcher16 58#8).wellFormed = true ∧ (Instr.hdrsum 255#8 255#8).wellFormed = true := by decide

/-- All four clauses of ReservedCommandsRefused, the two with a length at its least value. -/
theorem witness_ReservedCommandsRefused :
    (scripted [.command 0x6ABCD#19]).script = [.command 0x6ABCD#19] ∧ (scripted [.command 0x6ABCD#19]).inFlight = none
    ∧ opField 0x6ABCD#19 = 6#3 ∧ opField 0x7FFFF#19 = 7#3
    ∧ opField 0x1003B#19 = 1#3 ∧ 58 < (bField 0x1003B#19).toNat
    ∧ opField 0x3003B#19 = 3#3 ∧ 58 < (bField 0x3003B#19).toNat := by decide

theorem witness_ReservedOperationsStop : 58 < (59#8 : Byte).toNat := by decide

theorem witness_Fletcher16Result : (58#8 : Byte).toNat ≤ 58 ∧ (0#8 : Byte).toNat ≤ 58 := by decide

theorem witness_FletcherChangeOfOneByte : (0#8 : Byte) ≠ 255#8 ∧ (1#8 : Byte) ≠ 2#8 := by decide

/-- The first and the last status of each register. -/
theorem witness_status_queries :
    State.reset.rstat = .ok ∧ { State.reset with rstat := .dataChecksum }.rstat = .dataChecksum
    ∧ State.reset.wstat = .ok ∧ { State.reset with wstat := .messageTooLong }.wstat = .messageTooLong := by decide

/-- Both clauses of FrameReadOutBytes are met: one read fails and one succeeds. -/
theorem witness_FrameReadOutBytes :
    (ready x1).cfg.outOnDataChecksum = .unchanged
    ∧ resultOf (exec .frameRead (ready x1)) = some (.frameRead ⟨true, 3#8⟩)
    ∧ resultOf (exec .frameRead (ready [])) = some (.frameRead ⟨false, 0#8⟩) := by decide

/-- The shortest payload of each value of RX_MIN_READY (VR5, and VR1's last sentence). -/
theorem witness_DeliveredLengthBounds :
    (∃ t : State, exec .frameRead (ready ve3) = .next t ∧ t.result = some (.frameRead ⟨true, 1#8⟩))
    ∧ ∃ t : State, exec .frameRead { pollsAtFive with rxq := [170#8, 5#8, 175#8, 0#8, 0#8] } = .next t
        ∧ t.result = some (.frameRead ⟨true, 0#8⟩) := ⟨⟨_, rfl, rfl⟩, ⟨_, rfl, rfl⟩⟩

/-- The longest payload (VR7): 58 bytes. -/
theorem witness_DeliveredLengthBounds_longest :
    ∃ t : State,
      exec .frameRead (ready ([170#8, 63#8, 233#8, 124#8, 123#8] ++ (List.range 58).map (BitVec.ofNat 8))) = .next t
      ∧ t.result = some (.frameRead ⟨true, 58#8⟩) := ⟨_, rfl, rfl⟩

/-- Lengths 0 and 5, with the right and a wrong header checksum (VR16, VR2). -/
theorem witness_ShortLengthRejected :
    (ready [170#8, 0#8, 170#8, 0#8, 0#8, 0#8]).rxq = [170#8, 0#8, 170#8] ++ [0#8, 0#8, 0#8]
    ∧ (ready [170#8, 5#8, 9#8, 0#8, 0#8, 0#8]).rxq = [170#8, 5#8, 9#8] ++ [0#8, 0#8, 0#8]
    ∧ 3 ≤ [0#8, 0#8, 0#8].length ∧ (0#8 : Byte).toNat ≤ 5 ∧ (5#8 : Byte).toNat ≤ 5 := by decide

/-- A flip in byte 0, in bits 5 and 6 of byte 1, in byte 2, in byte 4 and in the last byte. -/
theorem witness_SingleBitFlipRejected :
    validFrame ve3 ∧ 6 ≤ ve3.length ∧ (0 < ve3.length ∧ 0 < 8) ∧ (1 < ve3.length ∧ 5 < 8 ∧ 6 < 8)
    ∧ (2 < ve3.length ∧ 0 < 8) ∧ (4 < ve3.length ∧ 0 < 8) ∧ (5 < ve3.length ∧ 7 < 8)
    ∧ (ready [170#8, 6#8, 176#8, 7#8, 7#8, 135#8]).rxq = ve3.set 5 (ve3.getD 5 0#8 ^^^ BitVec.twoPow 8 7) := by decide

/-- VR14 and VR15. -/
theorem witness_FrameWithExtraBytesLost :
    validFrame x1 ∧ [0#8] ≠ ([] : List Byte) ∧ x1 ≠ []
    ∧ (ready (x1 ++ [0#8])).rxq = x1 ++ [0#8] ∧ (ready (x1 ++ x1)).rxq = x1 ++ x1 := by decide

/-- VR10, and a single byte. -/
theorem witness_LeadingGarbageCostsWindow :
    (ready (0#8 :: x1)).rxq = 0#8 :: x1 ∧ (0#8 : Byte) ≠ 170#8 ∧ (ready [1#8]).rxq = 1#8 :: [] := by decide

/-- Parts of 0, 5 and 7 bytes of an 8-byte frame (VR13). -/
theorem witness_EarlyPollDestroysFrame :
    validFrame x1 ∧ 0 < x1.length ∧ 5 < x1.length ∧ 7 < x1.length
    ∧ (ready []).rxq = x1.take 0 ∧ (ready [170#8, 8#8, 178#8, 48#8, 24#8]).rxq = x1.take 5
    ∧ (ready [170#8, 8#8, 178#8, 48#8, 24#8, 1#8, 22#8]).rxq = x1.take 7 := by decide

/-- Exactly enough room (VW10); the empty frame alone and with a byte behind it (VR1, VR2). -/
theorem witness_EmptyPayloadSentNotReceived :
    (txRoom 5).txq.length + 5 ≤ (txRoom 5).cfg.txDepth ∧ (ready []).cfg.rxMinReady = .six
    ∧ (ready [170#8, 5#8, 175#8, 0#8, 0#8]).rxq = [170#8, 5#8, 175#8, 0#8, 0#8] ++ []
    ∧ (ready [170#8, 5#8, 175#8, 0#8, 0#8, 0#8]).rxq = [170#8, 5#8, 175#8, 0#8, 0#8] ++ [0#8] := by decide

/-- X1 with its checksum swapped (VR21), and VE3, whose two sums are equal. -/
theorem witness_LowByteFirstPeerRejected :
    (1 ≤ [1#8, 22#8, 1#8].length ∧ [1#8, 22#8, 1#8].length ≤ 58)
    ∧ (ready [170#8, 8#8, 178#8, 24#8, 48#8, 1#8, 22#8, 1#8]).rxq
        = [170#8, BitVec.ofNat 8 (3 + 5), BitVec.ofNat 8 (175 + 3), lowByte (fletcher16 [1#8, 22#8, 1#8]),
            highByte (fletcher16 [1#8, 22#8, 1#8])] ++ [1#8, 22#8, 1#8]
    ∧ (ready ve3).rxq
        = [170#8, BitVec.ofNat 8 (1 + 5), BitVec.ofNat 8 (175 + 1), lowByte (fletcher16 [7#8]),
            highByte (fletcher16 [7#8])] ++ [7#8] := by decide

/-- The three clauses of WhichFailureForLongPayload: room or no room for 64 bytes, and a TX_DEPTH below 64. -/
theorem witness_WhichFailureForLongPayload :
    59 ≤ (59#8 : Byte).toNat
    ∧ (59#8 : Byte).toNat + 5 ≤ (txRoom 64).cfg.txDepth - (txRoom 64).txq.length
    ∧ (txRoom 63).cfg.txDepth < (59#8 : Byte).toNat + 5 ∧ (txRoom 63).cfg.txDepth < 64
    ∧ (after (exec (.frameWrite 59#8) (txRoom 63))).isSome = true := by decide

/-- RoundTrip for `n = 3`, for `n = 0`, and for `n = 0` where RX_MIN_READY is 5. -/
theorem witness_RoundTrip :
    (∃ t : State, exec (.frameWrite 3#8) (loaded [1#8, 22#8, 1#8]) = .next t ∧ t.wstat = .ok
      ∧ (ready x1).rxq = t.txq.drop (loaded [1#8, 22#8, 1#8]).txq.length)
    ∧ (∃ t : State, exec (.frameWrite 0#8) State.reset = .next t ∧ t.wstat = .ok
      ∧ (ready [170#8, 5#8, 175#8, 0#8, 0#8]).rxq = t.txq.drop State.reset.txq.length)
    ∧ pollsAtFive.cfg.rxMinReady = .five := by
  refine ⟨⟨_, rfl, rfl, ?_⟩, ⟨_, rfl, rfl, ?_⟩, rfl⟩ <;> decide

theorem witness_ValidFramesAreFrames : ([] : List Byte).length ≤ 58 ∧ validFrame x1 := by decide

/-- A next state for FRAME_READ, for FRAME_WRITE and for one of the others. -/
theorem witness_OperationsLeaveTheRestAlone :
    (after (exec .frameRead State.reset)).isSome = true ∧ (after (exec (.frameWrite 0#8) State.reset)).isSome = true
    ∧ (after (exec .rstatGet State.reset)).isSome = true := by decide

/-- Each clause: a word of a whole operation, of the two others and of none, on a machine of either kind. -/
theorem witness_StepRunsTheDecodedOperation :
    (ready x1).inFlight = none ∧ callByCall.inFlight = none ∧ callByCall.cfg.atomicOps = false
    ∧ decode 0x20000#19 = .ok .frameRead ∧ decode 0x3003B#19 = .ok (.frameWrite 59#8)
    ∧ decode 0x70000#19 = .ok .reserved7 ∧ decode 0x1003B#19 = .error (.fletcherLength 59#8) := by decide

theorem witness_NothingHappensWithoutACaller : (ready x1).script = [] := by decide

theorem witness_NoSecondOperationOrCallerWrite :
    { callByCall with inFlight := some .drainCheck }.inFlight ≠ none
    ∧ { callByCall with inFlight := some .drainCheck }.cfg.atomicOps = false
    ∧ (ready x1).cfg.atomicOps = true := by decide

/-- The last byte of a buffer, and an empty write at its end. -/
theorem witness_CallerWritesItsBuffers :
    (ready x1).inFlight = none ∧ 57 + [9#8].length ≤ 58 ∧ 58 + ([] : List Byte).length ≤ 58 := by decide

/-- Both outcomes: 8 and 64 bytes still fit in an empty RX_DEPTH of 64, and one byte more than 64 does not. -/
theorem witness_RxArriveAppends :
    (scripted [.rxArrive x1]).script = [.rxArrive x1]
    ∧ (scripted [.rxArrive x1]).rxq.length + x1.length ≤ (scripted [.rxArrive x1]).cfg.rxDepth
    ∧ ¬ (ready (List.replicate 64 0#8)).rxq.length + 1 ≤ (ready []).cfg.rxDepth := by decide

/-- The least and the greatest departure of an 8-byte TXQ, and the two counts next to them. -/
theorem witness_TxDepartMovesToLine :
    { scripted [.txDepart 8] with txq := x1 }.script = [.txDepart 8]
    ∧ (1 ≤ 1 ∧ 1 ≤ x1.length) ∧ (1 ≤ 8 ∧ 8 ≤ x1.length) ∧ ¬(1 ≤ 0 ∧ 0 ≤ x1.length) ∧ ¬(1 ≤ 9 ∧ 9 ≤ x1.length)
    ∧ x1.length ≤ (scripted []).cfg.txDepth := by decide

/-- A full and an empty TXQ. -/
theorem witness_TxDepartAllEmptiesTxq :
    { scripted [.txDepartAll] with txq := x1 }.script = [.txDepartAll]
    ∧ (scripted [.txDepartAll]).script = [.txDepartAll] ∧ (scripted [.txDepartAll]).txq = [] := by decide

theorem witness_LoopbackIsDepartThenArrive :
    { scripted [.loopback] with txq := x1 }.script = [.loopback]
    ∧ { scripted [.loopback] with txq := x1 }.rxq.length + x1.length ≤ (scripted []).cfg.rxDepth := by decide

theorem witness_OutboundOrderKept :
    (after (step { scripted [.txDepart 3] with txq := x1 })).isSome = true := by decide

/-- Every clause of WhoWritesWhat is met by some line: FRAME_READ, FRAME_WRITE, a caller's write, an arrival, a
departure, and a call of an operation in progress. -/
theorem witness_WhoWritesWhat :
    (after (step { scripted [.command 0x20000#19] with rxq := x1 })).map (fun t => (t.rxq, decide (t.outBuf = [])))
      = some ([], false)
    ∧ (after (step (scripted [.command 0x20000#19]))).map State.rstat = some .notEnoughBytes
    ∧ (after (step (scripted [.command 0x3003B#19]))).map State.wstat = some .messageTooLong
    ∧ (after (step (scripted [.writeIn 0 [1#8]]))).map State.inBuf = some [(0, 1#8)]
    ∧ (after (step (scripted [.rxArrive [1#8]]))).map State.rxq = some [1#8]
    ∧ (after (step { scripted [.txDepart 8] with txq := x1 })).map State.line = some x1
    ∧ (after (step { callByCall with script := [.advance], inFlight := some .readCheck })).map State.rstat
        = some .notEnoughBytes := by decide

/-- A good state with bytes in both queues and both buffers. -/
theorem witness_Inv_between_operations :
    State.Inv { State.reset with rxq := x1, txq := ve3, outBuf := [(0, 7#8)], inBuf := [(3, 1#8), (57, 2#8)],
                                 script := [.rxArrive x1] }
    ∧ (after (step { State.reset with rxq := x1, txq := ve3, outBuf := [(0, 7#8)], inBuf := [(3, 1#8), (57, 2#8)],
                                      script := [.rxArrive x1] })).isSome = true :=
  ⟨⟨by decide, by decide, by decide, by decide, fun f h => (by cases h), by decide⟩, by decide⟩

/-- A good state with a FRAME_READ in progress. -/
theorem witness_Inv_during_operation :
    State.Inv { callByCall with rxq := x1, inFlight := some .readStart, script := [.advance] }
    ∧ (after (step { callByCall with rxq := x1, inFlight := some .readStart, script := [.advance] })).isSome = true :=
  ⟨⟨by decide, by decide, by decide, by decide,
    fun f h => (by cases h; show 5 ≤ x1.length; decide), by decide⟩, by decide⟩

theorem witness_EveryOperationSequenceIsARun :
    Instr.frameRead.wellFormed = true ∧ Instr.frameRead ≠ .reserved6 ∧ Instr.frameRead ≠ .reserved7 := by decide

/-- The infinite run of a caller that polls an idle channel for ever (VR3 again and again). -/
theorem witness_EveryRunStaysGood :
    IsRun none fun i =>
      if i = 0 then State.reset
      else { State.reset with rstat := .notEnoughBytes, result := some (.frameRead ⟨false, 0#8⟩) } := by
  refine ⟨⟨rfl, rfl, rfl⟩, fun i _ => ⟨[.command 0x20000#19], ?_, ?_⟩⟩ <;> cases i <;>
    first | rfl | simp [State.reset, State.resetWith]

/-- A poll, and then one idle step. -/
theorem witness_ScriptsDriveFiniteRuns :
    (scripted [.command 0x20000#19]).AtReset
    ∧ ∃ t : State, Host.Core.run core 2 (scripted [.command 0x20000#19]) = .next t := ⟨⟨rfl, rfl, rfl⟩, _, rfl⟩

theorem witness_FullFunctionNeedsDepth63 :
    (txRoom 63).rxq = [] ∧ (txRoom 63).txq = [] ∧ 63 ≤ (txRoom 63).cfg.txDepth
    ∧ ¬ 63 ≤ (txRoom 62).cfg.txDepth := by decide

theorem witness_CallByCallReadAgrees :
    callByCall.cfg.atomicOps = false ∧ callByCall.inFlight = none
    ∧ (after (exec .frameRead { callByCall with script := [], result := none })).isSome = true := by decide

theorem witness_CallByCallWriteAgrees :
    callByCall.cfg.atomicOps = false ∧ callByCall.inFlight = none
    ∧ (after (exec (.frameWrite 3#8) { callByCall with script := [], result := none })).isSome = true := by decide

end Sys2Proof.Tests
end

/-! SUPPORT. When an arrival and a FRAME_WRITE succeed, in every state; and from there the depths that full function
needs (R7, R202). -/

namespace Sys2Proof.Machine

/-! ### Arrivals -/

/-- The converse of `rxArrive_eq_next`: bytes that RX_DEPTH has room for arrive (R50). -/
theorem rxArrive_of_room {bs : List Byte} {s : State} (room : s.rxq.length + bs.length ≤ s.cfg.rxDepth) :
    rxArrive bs s = .next { s with rxq := s.rxq ++ bs } := if_pos room

theorem rxArrive_completes_iff {bs : List Byte} {s : State} :
    (∃ t, rxArrive bs s = .next t) ↔ s.rxq.length + bs.length ≤ s.cfg.rxDepth :=
  ⟨fun ⟨_, arrives⟩ => (rxArrive_eq_next arrives).1, fun room => ⟨_, rxArrive_of_room room⟩⟩

/-! ### The two outcomes of FRAME_WRITE -/

theorem exec_frameWrite (n : Byte) (s : State) : exec (.frameWrite n) s = execFrameWrite n s := rfl

/-- The two tests report a failure, never OK. -/
theorem writeCheckStatus_ne_ok (n : Byte) (s : State) : writeCheckStatus n s ≠ some .ok := by
  unfold writeCheckStatus
  split
  · simp
  · split <;> simp

/-- A failed test is the outcome, and nothing is enqueued (R153, R154). -/
theorem execFrameWrite_of_check {n : Byte} {s : State} {st : WriteStatus} (fails : writeCheckStatus n s = some st) :
    execFrameWrite n s = .next (failWrite st s) := by simp [execFrameWrite, fails]

/-- A frame that fits the room left and the format is enqueued whole (R152 steps 3 to 5). -/
theorem execFrameWrite_of_fits {n : Byte} {s : State} (room : n.toNat + 5 ≤ availableForWrite s)
    (short : n.toNat ≤ 58) :
    execFrameWrite n s
      = .next (endWrite .ok (okPair (n.toNat + 5))
          { s with txq := s.txq ++ frame (Memory.readRange s.inBuf 0 n.toNat) }) := by
  have passes : writeCheckStatus n s = none := writeCheckStatus_eq_none.mpr ⟨room, short⟩
  have written := writeBytes_of_room (frame (Memory.readRange s.inBuf 0 n.toNat)) s (by simpa using room)
  simp [execFrameWrite, passes, loadIn_of_le short, written]

/-- FRAME_WRITE succeeds exactly when its frame fits the room left and the format. -/
theorem exec_frameWrite_succeeds_iff {n : Byte} {s : State} :
    (∃ t, exec (.frameWrite n) s = .next t ∧ t.wstat = .ok)
      ↔ n.toNat + 5 ≤ availableForWrite s ∧ n.toNat ≤ 58 := by
  rw [exec_frameWrite]
  constructor
  · rintro ⟨t, ends, ok⟩
    cases check : writeCheckStatus n s with
    | none => exact writeCheckStatus_eq_none.mp check
    | some st =>
      rw [execFrameWrite_of_check check] at ends
      cases ends
      exact absurd (check.trans (congrArg some ok)) (writeCheckStatus_ne_ok n s)
  · rintro ⟨room, short⟩
    exact ⟨_, execFrameWrite_of_fits room short, rfl⟩

/-! ### The depths full function needs -/

/-- Every legal frame can arrive in an empty RXQ exactly when the longest one can. -/
theorem everyFrameArrives_iff {s : State} (empty : s.rxq = []) :
    (∀ p : List Byte, p.length ≤ 58 → ∃ t, rxArrive (frame p) s = .next t) ↔ 63 ≤ s.cfg.rxDepth := by
  simp only [rxArrive_completes_iff, empty, length_frame, List.length_nil, Nat.zero_add]
  constructor
  · intro arrives
    simpa using arrives (List.replicate 58 0#8) (by simp)
  · intro deep p short
    omega

/-- Every legal payload can be sent from an empty TXQ exactly when the longest one can. -/
theorem everyPayloadIsSent_iff {s : State} (empty : s.txq = []) :
    (∀ n : Byte, n.toNat ≤ 58 → ∃ t, exec (.frameWrite n) s = .next t ∧ t.wstat = .ok)
      ↔ 63 ≤ s.cfg.txDepth := by
  simp only [exec_frameWrite_succeeds_iff, availableForWrite, empty, List.length_nil, Nat.sub_zero]
  constructor
  · intro sent
    simpa using (sent 58#8 (by decide)).1
  · intro deep n short
    exact ⟨by omega, short⟩

/-- Settles O52: both bounds are the length of the longest frame, 58 + 5 = 63 bytes. -/
theorem fullFunctionNeedsDepth63 : Obligations.FullFunctionNeedsDepth63 :=
  fun _ rxEmpty txEmpty => ⟨everyFrameArrives_iff rxEmpty, everyPayloadIsSent_iff txEmpty⟩

end Sys2Proof.Machine

/-! SUPPORT. FRAME_READ and FRAME_WRITE as functions on states: the state each one ends in, with every field said once
(R136, R159), so that what an operation changes and leaves unchanged is read off. -/

namespace Sys2Proof.Machine

/-! ### The pair handed to the caller -/

/-- `Ok(k)` or `Fail`, as the outcome says (R27). -/
def pairIf (succeeds : Prop) [Decidable succeeds] (k : Nat) : OkCount := if succeeds then okPair k else failPair

section pairIf
variable {succeeds : Prop} [Decidable succeeds] {k : Nat}

@[simp] theorem pairIf_ok : (pairIf succeeds k).ok = true ↔ succeeds := by
  unfold pairIf
  split <;> simp_all [okPair, failPair]

theorem pairIf_count_of_fail (fails : (pairIf succeeds k).ok = false) : (pairIf succeeds k).count = 0#8 := by
  have : ¬ succeeds := fun h => by simp [pairIf_ok.mpr h] at fails
  rw [pairIf, if_neg this, failPair]

end pairIf

/-! ### FRAME_READ -/

/-- The checksum on the wire, high byte first (R41). -/
def wireChecksum (q : List Byte) : Word16 := joinBigEndian (q.getD 3 0#8) (q.getD 4 0#8)

/-- Steps 1 to 6 of FRAME_READ on the ready bytes `q`: the failure found before a payload byte is read (R124 to
R128). -/
def statusBeforePayload (c : Config) (q : List Byte) : Option ReadStatus :=
  if q.length < minReadyCount c.rxMinReady then some .notEnoughBytes
  else (prefixStatus (q.getD 0 0#8) (q.getD 1 0#8) (q.getD 2 0#8)).or
    (if q.length = (q.getD 1 0#8).toNat then none else some .dataLessThanLength)

/-- The status FRAME_READ ends with (R136). -/
def readVerdict (c : Config) (q : List Byte) : ReadStatus :=
  (statusBeforePayload c q).getD (if fletcher16 (q.drop 5) = wireChecksum q then .ok else .dataChecksum)

/-- The payload reaches OUT: the checksum agrees, or the machine writes rejected payloads too (R130, R132, U3). -/
abbrev payloadReachesOut (c : Config) (q : List Byte) : Prop :=
  statusBeforePayload c q = none
    ∧ (fletcher16 (q.drop 5) = wireChecksum q ∨ c.outOnDataChecksum ≠ .unchanged)

/-- The state FRAME_READ ends in. -/
def afterFrameRead (s : State) : State :=
  endRead (readVerdict s.cfg s.rxq) (pairIf (readVerdict s.cfg s.rxq = .ok) (s.rxq.length - 5))
    { drain s with
      outBuf := if payloadReachesOut s.cfg s.rxq then Memory.writeRange s.outBuf 0 (s.rxq.drop 5) else s.outBuf }

/-- The tests on the header report a failure, never OK. -/
theorem prefixStatus_ne_ok (S L H : Byte) : prefixStatus S L H ≠ some .ok := by
  unfold prefixStatus
  split
  · simp
  · split
    · simp
    · split <;> simp

theorem minReadyCount_ge_five (c : RxMinReady) : 5 ≤ minReadyCount c := by
  rw [minReadyCount_eq]
  split <;> omega

theorem statusBeforePayload_ne_ok (c : Config) (q : List Byte) : statusBeforePayload c q ≠ some .ok := by
  unfold statusBeforePayload
  split
  · simp
  · rw [ne_eq, Option.or_eq_some_iff, not_or]
    refine ⟨prefixStatus_ne_ok _ _ _, fun ⟨_, count⟩ => ?_⟩
    split at count <;> simp at count

/-- The payload is read only when `L` is the number of bytes that were ready, header and payload, and within the
format's bounds. -/
theorem length_of_statusBeforePayload_eq_none {c : Config} {q : List Byte} (passes : statusBeforePayload c q = none) :
    5 ≤ q.length ∧ q.length ≤ 63 := by
  have enough := minReadyCount_ge_five c.rxMinReady
  unfold statusBeforePayload at passes
  split at passes
  · simp at passes
  · obtain ⟨header, count⟩ := Option.or_eq_none_iff.mp passes
    obtain ⟨-, short, -⟩ := prefixStatus_eq_none.mp header
    split at count
    · omega
    · simp at count

/-- With enough bytes ready the tests are those of the header, then the byte count. -/
theorem statusBeforePayload_cons {c : Config} {S L H hi lo : Byte} {p : List Byte}
    (enough : minReadyCount c.rxMinReady ≤ p.length + 5) :
    statusBeforePayload c (S :: L :: H :: hi :: lo :: p)
      = (prefixStatus S L H).or (if p.length + 5 = L.toNat then none else some .dataLessThanLength) := by
  simp [statusBeforePayload, not_lt.mpr enough]

/-- A failure found before the payload drains RXQ and leaves OUT alone. -/
theorem afterFrameRead_of_status {s : State} {st : ReadStatus} (fails : statusBeforePayload s.cfg s.rxq = some st) :
    afterFrameRead s = failRead st s := by
  have notOk : st ≠ .ok := fun h => statusBeforePayload_ne_ok s.cfg s.rxq (h ▸ fails)
  simp [afterFrameRead, readVerdict, payloadReachesOut, fails, notOk, pairIf, failRead, drain]

/-- Steps 7 to 9 when the payload fits OUT and is all that is ready behind the checksum (R129, R130). -/
theorem readBody_of_ready {s : State} {L hi lo : Byte} {p : List Byte} (ready : s.rxq = hi :: lo :: p)
    (count : p.length + 5 = L.toNat) :
    readBody L s = deliver L (joinBigEndian hi lo) p { s with rxq := [] } := by
  have all : payloadLength L = p.length := by simp; omega
  have payload := readBytes_of_le p.length { s with rxq := p } (Nat.le_refl _)
  simp only [List.take_length, List.drop_length] at payload
  simp only [readBody, readByte_cons ready, readByte_cons (s := { s with rxq := lo :: p }) rfl, andThen_ok, all,
    payload]

/-- Step 9 on all the ready bytes ends in the closed form. -/
theorem deliver_eq_afterFrameRead {s : State} {S L H hi lo : Byte} {p : List Byte}
    (ready : s.rxq = S :: L :: H :: hi :: lo :: p) (passes : statusBeforePayload s.cfg s.rxq = none)
    (count : p.length + 5 = L.toNat) :
    deliver L (joinBigEndian hi lo) p { s with rxq := [] } = .next (afterFrameRead s) := by
  have short := (length_of_statusBeforePayload_eq_none passes).2
  simp only [ready, List.length_cons] at short
  rw [deliver_of_le (by omega)]
  rw [ready] at passes
  by_cases agrees : fletcher16 p = joinBigEndian hi lo
  · simp [afterFrameRead, readVerdict, payloadReachesOut, wireChecksum, ready, passes, agrees, pairIf, drain,
      ← count]
  · simp [afterFrameRead, readVerdict, payloadReachesOut, wireChecksum, ready, passes, agrees, pairIf, drain]

/-- Steps 3 to 9 on a complete header end in the closed form. -/
theorem checkAndReadBody_eq_afterFrameRead {s : State} {S L H hi lo : Byte} {p : List Byte}
    (ready : s.rxq = S :: L :: H :: hi :: lo :: p) (enough : minReadyCount s.cfg.rxMinReady ≤ p.length + 5) :
    checkAndReadBody S L H { s with rxq := hi :: lo :: p } = .next (afterFrameRead s) := by
  have tests := statusBeforePayload_cons (S := S) (L := L) (H := H) (hi := hi) (lo := lo) enough
  rw [← ready] at tests
  unfold checkAndReadBody
  cases header : prefixStatus S L H with
  | some st =>
    rw [afterFrameRead_of_status (by simpa [header] using tests)]
    rfl
  | none =>
    by_cases count : p.length + 5 = L.toNat
    · have same : ¬ countDiffers (hi :: lo :: p).length L := by
        rw [countDiffers_iff, List.length_cons, List.length_cons]; omega
      simp only [available, if_neg same]
      rw [readBody_of_ready rfl count]
      exact deliver_eq_afterFrameRead ready (by simpa [header, count] using tests) count
    · have differs : countDiffers (hi :: lo :: p).length L := by
        rw [countDiffers_iff, List.length_cons, List.length_cons]; omega
      simp only [available, if_pos differs]
      rw [afterFrameRead_of_status (by simpa [header, count] using tests)]
      rfl

theorem exists_five_of_le {q : List Byte} (h : 5 ≤ q.length) :
    ∃ S L H hi lo p, q = S :: L :: H :: hi :: lo :: p := by
  match q with
  | S :: L :: H :: hi :: lo :: p => exact ⟨S, L, H, hi, lo, p, rfl⟩
  | [] | [_] | [_, _] | [_, _, _] | [_, _, _, _] => simp at h

/-- FRAME_READ completes in every state, in the closed form (R122, R136). -/
theorem exec_frameRead (s : State) : exec .frameRead s = .next (afterFrameRead s) := by
  change execFrameRead s = _
  unfold execFrameRead available
  by_cases few : s.rxq.length < minReadyCount s.cfg.rxMinReady
  · rw [if_pos few, afterFrameRead_of_status (if_pos few)]
  · rw [if_neg few]
    have five := minReadyCount_ge_five s.cfg.rxMinReady
    obtain ⟨S, L, H, hi, lo, p, ready⟩ := exists_five_of_le (q := s.rxq) (by omega)
    simp only [ready, List.length_cons] at few
    simp only [readByte_cons ready, readByte_cons (s := { s with rxq := L :: H :: hi :: lo :: p }) rfl,
      readByte_cons (s := { s with rxq := H :: hi :: lo :: p }) rfl, andThen_ok]
    exact checkAndReadBody_eq_afterFrameRead ready (by omega)

/-! ### FRAME_WRITE -/

/-- The status FRAME_WRITE n ends with (R159). -/
def writeVerdict (n : Byte) (s : State) : WriteStatus := (writeCheckStatus n s).getD .ok

/-- The bytes FRAME_WRITE n enqueues: a whole frame or nothing (R155, R156). -/
def enqueued (n : Byte) (s : State) : List Byte :=
  if writeVerdict n s = .ok then frame (Memory.readRange s.inBuf 0 n.toNat) else []

/-- The state FRAME_WRITE n ends in. -/
def afterFrameWrite (n : Byte) (s : State) : State :=
  endWrite (writeVerdict n s) (pairIf (writeVerdict n s = .ok) (n.toNat + 5)) { s with txq := s.txq ++ enqueued n s }

theorem writeVerdict_eq_ok {n : Byte} {s : State} :
    writeVerdict n s = .ok ↔ n.toNat + 5 ≤ availableForWrite s ∧ n.toNat ≤ 58 := by
  rw [← writeCheckStatus_eq_none, writeVerdict]
  cases check : writeCheckStatus n s with
  | none => simp
  | some st => simpa [check] using writeCheckStatus_ne_ok n s

/-- FRAME_WRITE completes in every state, in the closed form (R152, R159). -/
theorem exec_frameWrite_eq_next (n : Byte) (s : State) : exec (.frameWrite n) s = .next (afterFrameWrite n s) := by
  rw [exec_frameWrite]
  cases check : writeCheckStatus n s with
  | some st =>
    have notOk : st ≠ .ok := fun h => writeCheckStatus_ne_ok n s (h ▸ check)
    simp [execFrameWrite_of_check check, afterFrameWrite, enqueued, writeVerdict, check, notOk, pairIf, failWrite]
  | none =>
    obtain ⟨room, short⟩ := writeCheckStatus_eq_none.mp check
    simp [execFrameWrite_of_fits room short, afterFrameWrite, enqueued, writeVerdict, check, pairIf]

/-! ### Every operation -/

/-- An operation that completes ends in the closed form of its unit or changes only the result port. -/
theorem exec_eq_next {i : Instr} {s t : State} (h : exec i s = .next t) :
    (i = .frameRead ∧ t = afterFrameRead s)
      ∨ (∃ n, i = .frameWrite n ∧ t = afterFrameWrite n s)
      ∨ (i ≠ .frameRead ∧ (∀ n, i ≠ .frameWrite n) ∧ ∃ r, t = giveResult r s) := by
  cases i with
  | frameRead =>
    rw [exec_frameRead] at h
    cases h
    exact .inl ⟨rfl, rfl⟩
  | frameWrite n =>
    rw [exec_frameWrite_eq_next] at h
    cases h
    exact .inr (.inl ⟨n, rfl, rfl⟩)
  | hdrsum a b =>
    cases h
    exact .inr (.inr ⟨nofun, nofun, _, rfl⟩)
  | fletcher16 n =>
    change execFletcher16 n s = _ at h
    unfold execFletcher16 at h
    split at h
    · obtain ⟨_, -, ends⟩ := andThen_eq_next h
      cases ends
      exact .inr (.inr ⟨nofun, nofun, _, rfl⟩)
    · cases h
  | rstatGet =>
    cases h
    exact .inr (.inr ⟨nofun, nofun, _, rfl⟩)
  | wstatGet =>
    cases h
    exact .inr (.inr ⟨nofun, nofun, _, rfl⟩)
  | reserved6 => cases h
  | reserved7 => cases h

/-! ### The statements that follow from the closed forms -/

/-- Settles O19: both results are `pairIf` of the status written. -/
theorem okBitTellsStatus : Obligations.OkBitTellsStatus :=
  ⟨fun s => ⟨_, _, exec_frameRead s, rfl, pairIf_ok, pairIf_count_of_fail⟩,
    fun n s => ⟨_, _, exec_frameWrite_eq_next n s, rfl, pairIf_ok, pairIf_count_of_fail⟩⟩

/-- Settles O33, from the three forms an operation can end in. -/
theorem operationsLeaveTheRestAlone : Obligations.OperationsLeaveTheRestAlone := by
  intro i s t ends
  rcases exec_eq_next ends with ⟨rfl, rfl⟩ | ⟨n, rfl, rfl⟩ | ⟨notRead, notWrite, r, rfl⟩
  · exact ⟨⟨rfl, rfl, rfl, rfl, rfl⟩, fun _ => ⟨rfl, rfl⟩, nofun, fun h => absurd rfl h⟩
  · exact ⟨⟨rfl, rfl, rfl, rfl, rfl⟩, nofun, fun _ => ⟨rfl, rfl, rfl⟩, fun _ h => absurd rfl (h n)⟩
  · exact ⟨⟨rfl, rfl, rfl, rfl, rfl⟩, fun h => absurd h notRead, fun ⟨n, h⟩ => absurd h (notWrite n),
      fun _ _ => rfl⟩

/-- Settles O34: each operation writes no field the other's closed form reads. -/
theorem readAndWriteCommute : Obligations.ReadAndWriteCommute := fun n s =>
  ⟨afterFrameRead s, afterFrameWrite n s, afterFrameWrite n (afterFrameRead s), afterFrameRead (afterFrameWrite n s),
    exec_frameRead s, exec_frameWrite_eq_next n _, exec_frameWrite_eq_next n s, exec_frameRead _, rfl, rfl, rfl⟩

/-- Settles O14: R23's table is `readStatusCode`. -/
theorem rstatGetResult : Obligations.RstatGetResult := fun s =>
  ⟨readStatusCode s.rstat, rfl, by cases s.rstat <;> simp [readStatusCode]⟩

/-- Settles O15: R25's table is `writeStatusCode`. -/
theorem wstatGetResult : Obligations.WstatGetResult := fun s =>
  ⟨writeStatusCode s.wstat, rfl, by cases s.wstat <;> simp [writeStatusCode]⟩

end Sys2Proof.Machine

/-! SUPPORT. What each step changes: every call of an operation in progress and every line of a script, as the frame of
the unit it belongs to (R20's "written by" column, R26). -/

namespace Sys2Proof.Machine

/-! ### The parts of a call -/

/-- A sequence that begins with `readByte` and answers a next state took the head of RXQ and went on behind it. -/
theorem readByte_andThen_eq_next {k : Byte × State → StepOutcome} {s t : State}
    (h : andThen (readByte s) k = .next t) :
    ∃ b rest, s.rxq = b :: rest ∧ k (b, { s with rxq := rest }) = .next t := by
  obtain ⟨⟨b, s₁⟩, took, ends⟩ := andThen_eq_next h
  obtain ⟨rest, ready, rfl⟩ := readByte_eq_ok took
  exact ⟨b, rest, ready, ends⟩

/-- A rejected payload that OUT takes was kept from it or fits there (R132, U3). -/
theorem rejectPayload_eq_ok {P : List Byte} {s s' : State} (h : rejectPayload P s = .ok s') :
    s' = s ∨ (P.length ≤ 58 ∧ s' = { s with outBuf := Memory.writeRange s.outBuf 0 P }) := by
  unfold rejectPayload at h
  split at h
  · cases h
    exact .inl rfl
  · exact .inr (storeOut_eq_ok h)

/-- Step 9 that completes ends FRAME_READ, with OUT as it was or with a payload written there that fits. -/
theorem deliver_eq_next {L : Byte} {CK : Word16} {P : List Byte} {s t : State} (h : deliver L CK P s = .next t) :
    ∃ st r s₁, t = endRead st r s₁
      ∧ (s₁ = s ∨ (P.length ≤ 58 ∧ s₁ = { s with outBuf := Memory.writeRange s.outBuf 0 P })) := by
  unfold deliver at h
  split at h
  · obtain ⟨s₁, rejected, ends⟩ := andThen_eq_next h
    cases ends
    exact ⟨_, _, s₁, rfl, rejectPayload_eq_ok rejected⟩
  · obtain ⟨s₁, stored, ends⟩ := andThen_eq_next h
    cases ends
    exact ⟨_, _, s₁, rfl, .inr (storeOut_eq_ok stored)⟩

/-! ### The two frames -/

/-- Nothing changed that FRAME_READ does not write (R22, R26). -/
structure ReaderFrame (s t : State) : Prop where
  cfg : t.cfg = s.cfg
  wstat : t.wstat = s.wstat
  inBuf : t.inBuf = s.inBuf
  txq : t.txq = s.txq
  line : t.line = s.line

/-- Nothing changed that FRAME_WRITE does not write (R24, R26). -/
structure WriterFrame (s t : State) : Prop where
  cfg : t.cfg = s.cfg
  rstat : t.rstat = s.rstat
  outBuf : t.outBuf = s.outBuf
  inBuf : t.inBuf = s.inBuf
  rxq : t.rxq = s.rxq
  line : t.line = s.line

theorem deliver_readerFrame {L : Byte} {CK : Word16} {P : List Byte} {s t : State} (h : deliver L CK P s = .next t) :
    ReaderFrame s t := by
  obtain ⟨st, r, s₁, rfl, rfl | ⟨-, rfl⟩⟩ := deliver_eq_next h
  · exact ⟨rfl, rfl, rfl, rfl, rfl⟩
  · exact ⟨rfl, rfl, rfl, rfl, rfl⟩

theorem collect_readerFrame {L : Byte} {CK : Word16} {P : List Byte} {s t : State} (h : collect L CK P s = .next t) :
    ReaderFrame s t := by
  unfold collect at h
  split at h
  · cases h
    exact ⟨rfl, rfl, rfl, rfl, rfl⟩
  · obtain ⟨cfg, wstat, inBuf, txq, line⟩ := deliver_readerFrame h
    exact ⟨cfg, wstat, inBuf, txq, line⟩

theorem afterPrefix_readerFrame (S L H : Byte) (s : State) : ReaderFrame s (afterPrefix S L H s) := by
  unfold afterPrefix
  split <;> exact ⟨rfl, rfl, rfl, rfl, rfl⟩

theorem afterWrite_writerFrame (T : Nat) (pending : List Byte) (s : State) :
    WriterFrame s (afterWrite T pending s) := by
  unfold afterWrite
  split <;> exact ⟨rfl, rfl, rfl, rfl, rfl, rfl⟩

/-- Taking bytes from RXQ first does not leave the frame of FRAME_READ. -/
theorem ReaderFrame.of_rxq {s t : State} {rest : List Byte} (h : ReaderFrame { s with rxq := rest } t) :
    ReaderFrame s t := ⟨h.cfg, h.wstat, h.inBuf, h.txq, h.line⟩

/-- Putting bytes into TXQ first does not leave the frame of FRAME_WRITE. -/
theorem WriterFrame.of_txq {s t : State} {q : List Byte} (h : WriterFrame { s with txq := q } t) :
    WriterFrame s t := ⟨h.cfg, h.rstat, h.outBuf, h.inBuf, h.rxq, h.line⟩

/-- A call that takes a byte and goes on to the next call stays in the frame of FRAME_READ. -/
theorem readByte_hold_readerFrame {next : Byte → InFlight} {s t : State}
    (h : andThen (readByte s) (fun r => .next (hold (next r.1) r.2)) = .next t) : ReaderFrame s t := by
  obtain ⟨b, rest, -, ends⟩ := readByte_andThen_eq_next h
  cases ends
  exact ⟨rfl, rfl, rfl, rfl, rfl⟩

/-- A call of FRAME_READ changes nothing that FRAME_READ does not write. -/
theorem advanceFrom_readerFrame {f : InFlight} {s t : State} (reads : f.isRead = true)
    (h : advanceFrom f s = .next t) : ReaderFrame s t := by
  cases f with
  | readCheck => cases h; split <;> exact ⟨rfl, rfl, rfl, rfl, rfl⟩
  | readCount L => cases h; split <;> exact ⟨rfl, rfl, rfl, rfl, rfl⟩
  | drainCheck => cases h; split <;> exact ⟨rfl, rfl, rfl, rfl, rfl⟩
  | readStart => exact readByte_hold_readerFrame (next := .readLength) h
  | readLength S => exact readByte_hold_readerFrame (next := .readHsum S) h
  | readCkHigh L => exact readByte_hold_readerFrame (next := .readCkLow L) h
  | drainRead => exact readByte_hold_readerFrame (next := fun _ => .drainCheck) h
  | readHsum S L =>
    obtain ⟨H, rest, -, ends⟩ := readByte_andThen_eq_next h
    cases ends
    exact (afterPrefix_readerFrame S L H _).of_rxq
  | readCkLow L hi =>
    obtain ⟨lo, rest, -, ends⟩ := readByte_andThen_eq_next h
    exact (collect_readerFrame ends).of_rxq
  | readPayload L CK P =>
    obtain ⟨b, rest, -, ends⟩ := readByte_andThen_eq_next h
    exact (collect_readerFrame ends).of_rxq
  | writeCheck n => cases reads
  | writeNext T pending => cases reads

/-- The first call of FRAME_WRITE that completes fails the operation, or goes on to its frame, which fits. -/
theorem advanceFrom_writeCheck_eq_next {n : Byte} {s t : State} (h : advanceFrom (.writeCheck n) s = .next t) :
    (∃ st, t = failWrite st (release s))
      ∨ (n.toNat + 5 ≤ availableForWrite s ∧ n.toNat ≤ 58
          ∧ t = hold (.writeNext (n.toNat + 5) (frame (Memory.readRange s.inBuf 0 n.toNat))) s) := by
  unfold advanceFrom at h
  cases check : writeCheckStatus n s with
  | some st =>
    simp only [check] at h
    cases h
    exact .inl ⟨st, rfl⟩
  | none =>
    obtain ⟨room, short⟩ := writeCheckStatus_eq_none.mp check
    simp only [check, loadIn_of_le short, andThen_ok] at h
    cases h
    exact .inr ⟨room, short, rfl⟩

/-- A `writeByte` step that completes had room and put the next pending byte into TXQ. -/
theorem advanceFrom_writeNext_cons_eq_next {T : Nat} {b : Byte} {pending : List Byte} {s t : State}
    (h : advanceFrom (.writeNext T (b :: pending)) s = .next t) :
    s.txq.length < s.cfg.txDepth ∧ t = afterWrite T pending { s with txq := s.txq ++ [b] } := by
  obtain ⟨⟨k, s₁⟩, wrote, ends⟩ := andThen_eq_next h
  obtain ⟨room, -, rfl⟩ := writeByte_eq_ok wrote
  cases ends
  exact ⟨room, rfl⟩

/-- A call of FRAME_WRITE changes nothing that FRAME_WRITE does not write. -/
theorem advanceFrom_writerFrame {f : InFlight} {s t : State} (writes : f.isRead = false)
    (h : advanceFrom f s = .next t) : WriterFrame s t := by
  cases f with
  | writeCheck n =>
    obtain ⟨st, rfl⟩ | ⟨-, -, rfl⟩ := advanceFrom_writeCheck_eq_next h
    · exact ⟨rfl, rfl, rfl, rfl, rfl, rfl⟩
    · exact ⟨rfl, rfl, rfl, rfl, rfl, rfl⟩
  | writeNext T pending =>
    cases pending with
    | nil =>
      cases h
      exact ⟨rfl, rfl, rfl, rfl, rfl, rfl⟩
    | cons b pending =>
      obtain ⟨-, rfl⟩ := advanceFrom_writeNext_cons_eq_next h
      exact (afterWrite_writerFrame T pending _).of_txq
  | _ => cases writes

/-! ### The lines of a script -/

/-- The line runs FRAME_READ or goes on with one. -/
def RunsReader (s : State) (e : Event) : Prop :=
  (∃ cw, (e = .command cw ∨ e = .start cw) ∧ decode cw = .ok .frameRead)
    ∨ (e = .advance ∧ ∃ f, s.inFlight = some f ∧ f.isRead = true)

/-- The line runs FRAME_WRITE n or goes on with one. -/
def RunsWriter (s : State) (e : Event) : Prop :=
  (∃ cw n, (e = .command cw ∨ e = .start cw) ∧ decode cw = .ok (.frameWrite n))
    ∨ (e = .advance ∧ ∃ f, s.inFlight = some f ∧ f.isRead = false)

/-- The line is a departure of bytes from TXQ (R51, R85, R86). -/
abbrev Event.Departs (e : Event) : Prop := (∃ m, e = .txDepart m) ∨ e = .txDepartAll ∨ e = .loopback

/-- What a line that completes can have done. -/
inductive LineEffect (s : State) (e : Event) (t : State) : Prop where
  | reader (runs : RunsReader s e) (frame : ReaderFrame s t)
  | writer (runs : RunsWriter s e) (frame : WriterFrame s t)
  | neither (reading : ReaderFrame s t) (writing : WriterFrame s t)
  | callerIn (at_ : Nat) (bs : List Byte) (is : e = .writeIn at_ bs)
      (ends : t = { s with inBuf := Memory.writeRange s.inBuf at_ bs })
  | callerOut (at_ : Nat) (bs : List Byte) (is : e = .writeOut at_ bs)
      (ends : t = { s with outBuf := Memory.writeRange s.outBuf at_ bs })
  | arrival (bs : List Byte) (is : e = .rxArrive bs) (ends : t = { s with rxq := s.rxq ++ bs })
  | departure (m : Nat) (script : List Event) (is : e.Departs) (ends : t = { moveToLine m s with script := script })

/-- An operation invoked by a line, in one step, stays in the frame of its unit. -/
theorem lineEffect_of_exec {s t : State} {e : Event} {cw : CmdWord} {i : Instr}
    (invokes : e = .command cw ∨ e = .start cw) (dec : decode cw = .ok i) (ran : exec i s = .next t) :
    LineEffect s e t := by
  rcases exec_eq_next ran with ⟨rfl, rfl⟩ | ⟨n, rfl, rfl⟩ | ⟨-, -, r, rfl⟩
  · exact .reader (.inl ⟨cw, invokes, dec⟩) ⟨rfl, rfl, rfl, rfl, rfl⟩
  · exact .writer (.inl ⟨cw, n, invokes, dec⟩) ⟨rfl, rfl, rfl, rfl, rfl, rfl⟩
  · exact .neither ⟨rfl, rfl, rfl, rfl, rfl⟩ ⟨rfl, rfl, rfl, rfl, rfl, rfl⟩

/-- A call stays in the frame of the unit whose operation is in progress, and with none nothing happens. -/
theorem lineEffect_of_advance {s t : State} (h : advance s = .next t) : LineEffect s .advance t := by
  unfold advance at h
  split at h
  · cases h
    exact .neither ⟨rfl, rfl, rfl, rfl, rfl⟩ ⟨rfl, rfl, rfl, rfl, rfl, rfl⟩
  · rename_i f holds
    cases reads : f.isRead with
    | true => exact .reader (.inr ⟨rfl, f, holds, reads⟩) (advanceFrom_readerFrame reads h)
    | false => exact .writer (.inr ⟨rfl, f, holds, reads⟩) (advanceFrom_writerFrame reads h)

/-- Every line that completes had one of these effects. -/
theorem lineEffect_of_runEvent {s t : State} {e : Event} (h : runEvent e s = .next t) : LineEffect s e t := by
  cases e with
  | command cw =>
    obtain ⟨-, i, dec, ran⟩ := runCommand_eq_next h
    exact lineEffect_of_exec (.inl rfl) dec ran
  | start cw =>
    obtain ⟨-, -, i, dec, ⟨-, ran⟩ | ⟨f, -, rfl⟩⟩ := startCommand_eq_next h
    · exact lineEffect_of_exec (.inr rfl) dec ran
    · exact .neither ⟨rfl, rfl, rfl, rfl, rfl⟩ ⟨rfl, rfl, rfl, rfl, rfl, rfl⟩
  | advance => exact lineEffect_of_advance h
  | writeIn at_ bs => exact .callerIn at_ bs rfl (callerWriteIn_eq_next h).2.2
  | writeOut at_ bs => exact .callerOut at_ bs rfl (callerWriteOut_eq_next h).2.2
  | rxArrive bs => exact .arrival bs rfl (rxArrive_eq_next h).2
  | txDepart m => exact .departure m s.script (.inl ⟨m, rfl⟩) (txDepart_eq_next h).2.2
  | txDepartAll =>
    cases h
    exact .departure s.txq.length s.script (.inr (.inl rfl)) rfl
  | loopback =>
    cases h
    exact .departure s.txq.length _ (.inr (.inr rfl)) rfl

/-- Settles O45: each line stays in the frame of the unit it runs, or names the fields it writes. -/
theorem whoWritesWhat : Obligations.WhoWritesWhat := by
  intro s t e rest line ends
  rw [step_cons line] at ends
  cases lineEffect_of_runEvent ends with
  | reader runs frame =>
    exact ⟨frame.cfg, fun _ => runs, (absurd frame.wstat ·), fun _ => or_assoc.mp (.inl runs),
      (absurd frame.inBuf ·), fun _ => or_assoc.mp (.inl runs), (absurd frame.txq ·), (absurd frame.line ·)⟩
  | writer runs frame =>
    exact ⟨frame.cfg, (absurd frame.rstat ·), fun _ => runs, (absurd frame.outBuf ·), (absurd frame.inBuf ·),
      (absurd frame.rxq ·), fun _ => or_assoc.mp (.inl runs), (absurd frame.line ·)⟩
  | neither reading writing =>
    exact ⟨reading.cfg, (absurd writing.rstat ·), (absurd reading.wstat ·), (absurd writing.outBuf ·),
      (absurd reading.inBuf ·), (absurd writing.rxq ·), (absurd reading.txq ·), (absurd reading.line ·)⟩
  | callerIn at_ bs is ended => simp [ended, is]
  | callerOut at_ bs is ended => simp [ended, is]
  | arrival bs is ended => simp [ended, is]
  | departure m script is ended =>
    subst ended
    exact ⟨rfl, (absurd rfl ·), (absurd rfl ·), (absurd rfl ·), (absurd rfl ·), (absurd rfl ·),
      fun _ => .inr (.inr is), fun _ => is⟩

end Sys2Proof.Machine

/-! SUPPORT. The good states of Safety.lean are kept: what does not depend on the operation in progress first, then each
line of a script (R20, R28, R30, R32, R46, R48). -/

namespace Sys2Proof.Machine

/-! ### The queues and the buffers -/

/-- The part of `State.Inv` that says nothing of an operation in progress. -/
structure BuffersFit (s : State) : Prop where
  rxq_fits : s.rxq.length ≤ s.cfg.rxDepth
  txq_fits : s.txq.length ≤ s.cfg.txDepth
  outBuf_wf : Memory.wf s.outBuf = true
  inBuf_wf : Memory.wf s.inBuf = true

theorem State.Inv.buffersFit {s : State} (good : s.Inv) : BuffersFit s :=
  ⟨good.rxq_fits, good.txq_fits, good.outBuf_wf, good.inBuf_wf⟩

namespace BuffersFit
variable {s : State}

/-- Between operations nothing more is asked. -/
theorem inv_of_idle (fit : BuffersFit s) (idle : s.inFlight = none) : s.Inv :=
  ⟨fit.rxq_fits, fit.txq_fits, fit.outBuf_wf, fit.inBuf_wf, by simp [idle], fun _ => idle⟩

/-- An operation put or kept in progress where its coming calls can be made. -/
theorem inv_hold {f : InFlight} (fit : BuffersFit s) (fine : s.cfg.atomicOps = false) (fits : f.fits (hold f s)) :
    (hold f s).Inv where
  rxq_fits := fit.rxq_fits
  txq_fits := fit.txq_fits
  outBuf_wf := fit.outBuf_wf
  inBuf_wf := fit.inBuf_wf
  inFlight_fits := by
    intro g holds
    cases holds
    exact fits
  atomic_idle := by simp [fine]

/-- The head of RXQ taken. -/
theorem tail {b : Byte} {rest : List Byte} (fit : BuffersFit s) (ready : s.rxq = b :: rest) :
    BuffersFit { s with rxq := rest } := by
  have rxq_fits := fit.rxq_fits
  rw [ready, List.length_cons] at rxq_fits
  exact { fit with rxq_fits := Nat.le_of_succ_le rxq_fits }

/-- Bytes put into TXQ where there is room. -/
theorem enqueue {bs : List Byte} (fit : BuffersFit s) (room : s.txq.length + bs.length ≤ s.cfg.txDepth) :
    BuffersFit { s with txq := s.txq ++ bs } :=
  { fit with txq_fits := by simpa using room }

/-- Bytes written to OUT within its 58. -/
theorem store {at_ : Nat} {bs : List Byte} (fit : BuffersFit s) (inside : at_ + bs.length ≤ maxPayload) :
    BuffersFit { s with outBuf := Memory.writeRange s.outBuf at_ bs } :=
  { fit with outBuf_wf := Memory.wf_writeRange s.outBuf at_ bs fit.outBuf_wf inside }

/-! The ends of an operation touch no queue and no buffer. -/

theorem endRead {st : ReadStatus} {r : OkCount} (fit : BuffersFit s) : BuffersFit (endRead st r s) := { fit with }
theorem endWrite {st : WriteStatus} {r : OkCount} (fit : BuffersFit s) : BuffersFit (endWrite st r s) := { fit with }
theorem release (fit : BuffersFit s) : BuffersFit (release s) := { fit with }

end BuffersFit

/-! ### Whole operations -/

theorem afterFrameRead_buffersFit {s : State} (fit : BuffersFit s) : BuffersFit (afterFrameRead s) := by
  unfold afterFrameRead
  refine BuffersFit.endRead { fit with rxq_fits := Nat.zero_le _, outBuf_wf := ?_ }
  split
  · rename_i reaches
    have bounds := length_of_statusBeforePayload_eq_none reaches.1
    exact Memory.wf_writeRange _ _ _ fit.outBuf_wf (by simp; omega)
  · exact fit.outBuf_wf

/-- FRAME_WRITE enqueues only what TXQ has room for (R48). -/
theorem enqueued_fits {n : Byte} {s : State} (fits : s.txq.length ≤ s.cfg.txDepth) :
    s.txq.length + (enqueued n s).length ≤ s.cfg.txDepth := by
  unfold enqueued
  split
  · have room := (writeVerdict_eq_ok.mp ‹_›).1
    simp only [availableForWrite] at room
    simp
    omega
  · simpa using fits

/-- An operation invoked as one step keeps the good states. -/
theorem exec_keeps_inv {i : Instr} {s t : State} (fit : BuffersFit s) (idle : s.inFlight = none)
    (h : exec i s = .next t) : t.Inv := by
  rcases exec_eq_next h with ⟨-, rfl⟩ | ⟨n, -, rfl⟩ | ⟨-, -, r, rfl⟩
  · exact (afterFrameRead_buffersFit fit).inv_of_idle idle
  · exact ((fit.enqueue (enqueued_fits fit.txq_fits)).endWrite).inv_of_idle idle
  · exact BuffersFit.inv_of_idle { fit with } idle

/-! ### One call of an operation in progress -/

section advance
variable {s t : State}

theorem deliver_keeps_inv {L : Byte} {CK : Word16} {P : List Byte} (fit : BuffersFit s) (idle : s.inFlight = none)
    (h : deliver L CK P s = .next t) : t.Inv := by
  obtain ⟨st, r, s₁, rfl, rfl | ⟨short, rfl⟩⟩ := deliver_eq_next h
  · exact fit.endRead.inv_of_idle idle
  · exact (fit.store (by simpa using short)).endRead.inv_of_idle idle

/-- After a byte of step 7 or 8: the bytes still to come are ready, or the payload is complete. -/
theorem collect_keeps_inv {L : Byte} {CK : Word16} {P : List Byte} (fit : BuffersFit s)
    (fine : s.cfg.atomicOps = false) (bound : L.toNat ≤ 63) (ready : L.toNat - 5 ≤ P.length + s.rxq.length)
    (h : collect L CK P s = .next t) : t.Inv := by
  unfold collect at h
  split at h
  · rename_i more
    cases h
    exact fit.inv_hold fine ⟨bound, more, ready⟩
  · exact deliver_keeps_inv fit.release rfl h

/-- After the header's tests: the drain, or the byte count with `L` within the format. -/
theorem afterPrefix_keeps_inv (S L H : Byte) (fit : BuffersFit s) (fine : s.cfg.atomicOps = false)
    (ready : 2 ≤ s.rxq.length) : (afterPrefix S L H s).Inv := by
  unfold afterPrefix
  split
  · exact BuffersFit.inv_hold { fit with } fine trivial
  · obtain ⟨-, bound, -⟩ := prefixStatus_eq_none.mp ‹_›
    exact fit.inv_hold fine ⟨bound, ready⟩

/-- After a `writeByte`: the room for the bytes still pending is there, or the frame is complete. -/
theorem afterWrite_keeps_inv {T : Nat} {pending : List Byte} (fit : BuffersFit s) (fine : s.cfg.atomicOps = false)
    (total : 5 ≤ T ∧ T ≤ 63) (room : s.txq.length + pending.length ≤ s.cfg.txDepth) :
    (afterWrite T pending s).Inv := by
  unfold afterWrite
  split
  · exact fit.release.endWrite.inv_of_idle rfl
  · exact fit.inv_hold fine ⟨total.1, total.2, by simp, room⟩

/-- A call that takes a byte and goes on to a call that what is left suffices for. -/
theorem readByte_hold_keeps_inv {next : Byte → InFlight} (fit : BuffersFit s) (fine : s.cfg.atomicOps = false)
    (fits : ∀ b rest, s.rxq = b :: rest → (next b).fits { s with rxq := rest, inFlight := some (next b) })
    (h : andThen (readByte s) (fun r => .next (hold (next r.1) r.2)) = .next t) : t.Inv := by
  obtain ⟨b, rest, ready, ends⟩ := readByte_andThen_eq_next h
  cases ends
  exact (fit.tail ready).inv_hold fine (fits b rest ready)

/-- Each call leaves what the next ones need (R46, R48). -/
theorem advanceFrom_keeps_inv {f : InFlight} (fit : BuffersFit s) (fine : s.cfg.atomicOps = false) (fits : f.fits s)
    (h : advanceFrom f s = .next t) : t.Inv := by
  cases f with
  | readCheck =>
    cases h
    split
    · exact BuffersFit.inv_hold { fit with } fine trivial
    · exact fit.inv_hold fine ((minReadyCount_ge_five s.cfg.rxMinReady).trans (not_lt.mp ‹_›))
  | readStart =>
    refine readByte_hold_keeps_inv (next := .readLength) fit fine (fun S rest ready => ?_) h
    simpa [InFlight.fits, ready] using fits
  | readLength S =>
    refine readByte_hold_keeps_inv (next := .readHsum S) fit fine (fun L rest ready => ?_) h
    simpa [InFlight.fits, ready] using fits
  | readHsum S L =>
    obtain ⟨H, rest, ready, ends⟩ := readByte_andThen_eq_next h
    cases ends
    exact afterPrefix_keeps_inv S L H (fit.tail ready) fine (by simpa [InFlight.fits, ready] using fits)
  | readCount L =>
    cases h
    obtain ⟨bound, ready⟩ := fits
    split
    · exact BuffersFit.inv_hold { fit with } fine trivial
    · rename_i same
      have count : s.rxq.length + 3 = L.toNat := not_not.mp (countDiffers_iff.not.mp same)
      exact fit.inv_hold fine ⟨by omega, bound, by simp only [hold_rxq]; omega⟩
  | readCkHigh L =>
    obtain ⟨total, bound, left⟩ := fits
    refine readByte_hold_keeps_inv (next := .readCkLow L) fit fine (fun hi rest ready => ⟨total, bound, ?_⟩) h
    simp only [ready, List.length_cons] at left ⊢
    omega
  | readCkLow L hi =>
    obtain ⟨total, bound, left⟩ := fits
    obtain ⟨lo, rest, ready, ends⟩ := readByte_andThen_eq_next h
    simp only [ready, List.length_cons] at left
    exact collect_keeps_inv (fit.tail ready) fine bound (by simp; omega) ends
  | readPayload L CK P =>
    obtain ⟨bound, -, left⟩ := fits
    obtain ⟨b, rest, ready, ends⟩ := readByte_andThen_eq_next h
    simp only [ready, List.length_cons] at left
    exact collect_keeps_inv (fit.tail ready) fine bound (by simp; omega) ends
  | drainCheck =>
    cases h
    split
    · exact BuffersFit.inv_of_idle { fit with } rfl
    · exact fit.inv_hold fine (Nat.pos_of_ne_zero ‹_›)
  | drainRead => exact readByte_hold_keeps_inv (next := fun _ => .drainCheck) fit fine (fun _ _ _ => trivial) h
  | writeCheck n =>
    obtain ⟨st, rfl⟩ | ⟨room, short, rfl⟩ := advanceFrom_writeCheck_eq_next h
    · exact fit.release.endWrite.inv_of_idle rfl
    · have held := fit.txq_fits
      simp only [availableForWrite] at room
      exact fit.inv_hold fine ⟨by omega, by omega, by simp, by simp; omega⟩
  | writeNext T pending =>
    obtain ⟨atLeast, atMost, -, room⟩ := fits
    cases pending with
    | nil =>
      cases h
      exact fit.release.endWrite.inv_of_idle rfl
    | cons b pending =>
      obtain ⟨free, rfl⟩ := advanceFrom_writeNext_cons_eq_next h
      simp only [List.length_cons] at room
      exact afterWrite_keeps_inv (fit.enqueue free) fine ⟨atLeast, atMost⟩ (by simp; omega)

theorem advance_keeps_inv (good : s.Inv) (h : advance s = .next t) : t.Inv := by
  unfold advance at h
  split at h
  · cases h
    exact good
  · rename_i f holds
    have fine : s.cfg.atomicOps = false := by
      by_contra atomic
      simpa [holds] using good.atomic_idle (by simpa using atomic)
    exact advanceFrom_keeps_inv good.buffersFit fine (good.inFlight_fits f holds) h

end advance

/-! ### The lines of a script -/

/-- The first call of any operation relies on nothing. -/
theorem firstCall_fits {i : Instr} {f : InFlight} {s : State} (h : firstCall i = some f) : f.fits s := by
  cases i with
  | frameRead => cases h; trivial
  | frameWrite n => cases h; trivial
  | _ => cases h

/-- More bytes ready and more room left never hurt the coming calls. -/
theorem InFlight.fits_mono {f : InFlight} {s t : State} (cfg : t.cfg = s.cfg) (ready : s.rxq.length ≤ t.rxq.length)
    (room : t.txq.length ≤ s.txq.length) (fits : f.fits s) : f.fits t := by
  cases f <;> simp only [InFlight.fits, cfg] at fits ⊢ <;> omega

/-- A step of the environment, which lets an operation in progress go on, keeps the good states. -/
theorem State.Inv.of_environment {s t : State} (good : s.Inv) (fit : BuffersFit t) (cfg : t.cfg = s.cfg)
    (ready : s.rxq.length ≤ t.rxq.length) (room : t.txq.length ≤ s.txq.length) (same : t.inFlight = s.inFlight) :
    t.Inv where
  rxq_fits := fit.rxq_fits
  txq_fits := fit.txq_fits
  outBuf_wf := fit.outBuf_wf
  inBuf_wf := fit.inBuf_wf
  inFlight_fits f holds := InFlight.fits_mono cfg ready room (good.inFlight_fits f (same ▸ holds))
  atomic_idle atomic := same.trans (good.atomic_idle (cfg ▸ atomic))

theorem moveToLine_keeps_inv {s : State} (m : Nat) (script : List Event) (good : s.Inv) :
    State.Inv { moveToLine m s with script := script } := by
  have left : (s.txq.drop m).length ≤ s.txq.length := by simp
  exact good.of_environment { good.buffersFit with txq_fits := left.trans good.txq_fits } rfl (Nat.le_refl _) left rfl

theorem runEvent_keeps_inv {e : Event} {s t : State} (good : s.Inv) (h : runEvent e s = .next t) : t.Inv := by
  have fit := good.buffersFit
  cases e with
  | command cw =>
    obtain ⟨idle, i, -, ran⟩ := runCommand_eq_next h
    exact exec_keeps_inv fit idle ran
  | start cw =>
    obtain ⟨fine, idle, i, -, ⟨-, ran⟩ | ⟨f, first, rfl⟩⟩ := startCommand_eq_next h
    · exact exec_keeps_inv fit idle ran
    · exact fit.inv_hold fine (firstCall_fits first)
  | advance => exact advance_keeps_inv good h
  | writeIn at_ bs =>
    obtain ⟨idle, inside, rfl⟩ := callerWriteIn_eq_next h
    exact BuffersFit.inv_of_idle { fit with inBuf_wf := Memory.wf_writeRange _ _ _ fit.inBuf_wf inside } idle
  | writeOut at_ bs =>
    obtain ⟨idle, inside, rfl⟩ := callerWriteOut_eq_next h
    exact (fit.store inside).inv_of_idle idle
  | rxArrive bs =>
    obtain ⟨room, rfl⟩ := rxArrive_eq_next h
    exact good.of_environment { fit with rxq_fits := by simpa using room } rfl (by simp) (Nat.le_refl _) rfl
  | txDepart m =>
    obtain ⟨-, -, rfl⟩ := txDepart_eq_next h
    exact moveToLine_keeps_inv m s.script good
  | txDepartAll =>
    cases h
    exact moveToLine_keeps_inv s.txq.length s.script good
  | loopback =>
    cases h
    exact moveToLine_keeps_inv s.txq.length _ good

/-- Settles O46: an idle step changes nothing, and every line keeps the good states. -/
theorem everyStepKeepsTheInvariant : Obligations.EveryStepKeepsTheInvariant := by
  intro s t good ends
  cases line : s.script with
  | nil =>
    rw [step, line] at ends
    cases ends
    exact good
  | cons e rest =>
    rw [step_cons line] at ends
    have begun : (beginStep rest s).Inv :=
      good.of_environment { good.buffersFit with } rfl (Nat.le_refl _) (Nat.le_refl _) rfl
    exact runEvent_keeps_inv begun ends

end Sys2Proof.Machine

/-! SUPPORT. What a line of a script runs when it is not refused, and when it is: the converses of the inversion lemmas
of Laws/Step.lean (R28, R32, R83, R180 (c), U4). -/

namespace Sys2Proof.Machine

section invocation
variable {cw : CmdWord} {s : State}

theorem runCommand_of_decode {i : Instr} (idle : s.inFlight = none) (dec : decode cw = .ok i) :
    runCommand cw s = exec i s := by simp [runCommand, idle, dec]

theorem runCommand_of_error {e : DecodeError} (idle : s.inFlight = none) (dec : decode cw = .error e) :
    runCommand cw s = refuseWord e := by simp [runCommand, idle, dec]

theorem startCommand_of_firstCall {i : Instr} {f : InFlight} (fine : s.cfg.atomicOps = false)
    (idle : s.inFlight = none) (dec : decode cw = .ok i) (first : firstCall i = some f) :
    startCommand cw s = .next (hold f s) := by simp [startCommand, fine, idle, dec, first]

theorem startCommand_of_noCall {i : Instr} (fine : s.cfg.atomicOps = false) (idle : s.inFlight = none)
    (dec : decode cw = .ok i) (first : firstCall i = none) : startCommand cw s = exec i s := by
  simp [startCommand, fine, idle, dec, first]

theorem startCommand_of_error {e : DecodeError} (fine : s.cfg.atomicOps = false) (idle : s.inFlight = none)
    (dec : decode cw = .error e) : startCommand cw s = refuseWord e := by simp [startCommand, fine, idle, dec]

/-- Only FRAME_READ and FRAME_WRITE call the channel. -/
theorem firstCall_eq_none {i : Instr} (notRead : i ≠ .frameRead) (notWrite : ∀ n, i ≠ .frameWrite n) :
    firstCall i = none := by
  cases i with
  | frameRead => exact absurd rfl notRead
  | frameWrite n => exact absurd rfl (notWrite n)
  | _ => rfl

theorem runCommand_of_busy (busy : s.inFlight.isSome = true) : runCommand cw s = .refused .operationInProgress :=
  if_pos busy

theorem startCommand_of_atomic (atomic : s.cfg.atomicOps = true) :
    startCommand cw s = .refused .operationsAreAtomic := if_pos atomic

theorem startCommand_of_busy (fine : s.cfg.atomicOps = false) (busy : s.inFlight.isSome = true) :
    startCommand cw s = .refused .operationInProgress := by simp [startCommand, fine, busy]

end invocation

section callerWrites
variable {at_ : Nat} {bs : List Byte} {s : State}

theorem callerWriteIn_of_idle (idle : s.inFlight = none) (inside : at_ + bs.length ≤ maxPayload) :
    callerWriteIn at_ bs s = .next { s with inBuf := Memory.writeRange s.inBuf at_ bs } := by
  rw [callerWriteIn, if_neg (by simp [idle]), if_pos inside]

theorem callerWriteOut_of_idle (idle : s.inFlight = none) (inside : at_ + bs.length ≤ maxPayload) :
    callerWriteOut at_ bs s = .next { s with outBuf := Memory.writeRange s.outBuf at_ bs } := by
  rw [callerWriteOut, if_neg (by simp [idle]), if_pos inside]

theorem callerWriteIn_of_busy (busy : s.inFlight.isSome = true) :
    callerWriteIn at_ bs s = .refused .operationInProgress := if_pos busy

theorem callerWriteOut_of_busy (busy : s.inFlight.isSome = true) :
    callerWriteOut at_ bs s = .refused .operationInProgress := if_pos busy

end callerWrites

/-! ### The statements -/

/-- Settles O36: between operations a decoded word is run, or started where it calls the channel. -/
theorem stepRunsTheDecodedOperation : Obligations.StepRunsTheDecodedOperation := by
  intro s cw rest idle s₀ atomically callByCall
  have idle₀ : s₀.inFlight = none := idle
  refine ⟨fun i dec => ⟨runCommand_of_decode idle₀ dec, fun fine => ?_⟩,
    fun n dec => ⟨runCommand_of_error idle₀ dec, fun fine => startCommand_of_error (s := s₀) fine idle₀ dec⟩⟩
  refine ⟨fun reads => ?_, fun n writes => ?_, fun notRead notWrite => ?_⟩
  · exact startCommand_of_firstCall (s := s₀) fine idle₀ dec (reads ▸ rfl)
  · exact startCommand_of_firstCall (s := s₀) fine idle₀ dec (writes ▸ rfl)
  · exact startCommand_of_noCall (s := s₀) fine idle₀ dec (firstCall_eq_none notRead notWrite)

/-- Settles O37: the step of an empty script is that state by definition. -/
theorem nothingHappensWithoutACaller : Obligations.NothingHappensWithoutACaller := by
  intro s empty
  simp [step, empty]

/-- Settles O38: every one of these lines tests for an operation in progress before it does anything. -/
theorem noSecondOperationOrCallerWrite : Obligations.NoSecondOperationOrCallerWrite := by
  intro s cw at_ bs rest
  refine ⟨fun inProgress => ?_, fun atomic => ?_⟩
  · have busy : (beginStep rest s).inFlight.isSome = true := Option.isSome_iff_ne_none.mpr inProgress
    exact ⟨runCommand_of_busy busy, callerWriteIn_of_busy busy, callerWriteOut_of_busy busy,
      fun fine => startCommand_of_busy (s := beginStep rest s) fine busy⟩
  · exact startCommand_of_atomic (s := beginStep rest s) atomic

/-- Settles O39: the write of a range within the buffer, read back by `Memory.read_writeRange`. -/
theorem callerWritesItsBuffers : Obligations.CallerWritesItsBuffers := by
  intro s at_ bs rest idle inside wrote
  have idle₀ : (beginStep rest s).inFlight = none := idle
  exact ⟨⟨_, callerWriteIn_of_idle idle₀ inside, Memory.read_writeRange s.inBuf at_ bs⟩,
    ⟨_, callerWriteOut_of_idle idle₀ inside, Memory.read_writeRange s.outBuf at_ bs⟩⟩

end Sys2Proof.Machine

/-! SUPPORT. No step faults: whole operations in every state, and the calls of an operation in progress in the good
states, where the bytes or the room they rely on are there (R42, R46, R48); and from there every run (R216). -/

namespace Sys2Proof.Machine

/-! ### Outcomes that are no fault -/

theorem noFault_next (t : State) : NoFault (.next t) := nofun

theorem noFault_refused (r : Refusal) : NoFault (.refused r) := nofun

/-- A choice between two meanings neither of which faults. -/
theorem noFault_ite {c : Prop} [Decidable c] {o₁ o₂ : StepOutcome} (h₁ : NoFault o₁) (h₂ : NoFault o₂) :
    NoFault (if c then o₁ else o₂) := by
  split
  · exact h₁
  · exact h₂

theorem refuseWord_noFault (e : DecodeError) : NoFault (refuseWord e) := by
  cases e
  exact noFault_refused _

/-! ### Whole operations -/

theorem execFletcher16_of_le {n : Byte} {s : State} (short : n.toNat ≤ 58) :
    execFletcher16 n s = .next (giveResult (.word (fletcher16 (Memory.readRange s.inBuf 0 n.toNat))) s) := by
  rw [execFletcher16, if_pos short, loadIn_of_le short, andThen_ok]

theorem execFletcher16_of_gt {n : Byte} {s : State} (long : 58 < n.toNat) :
    execFletcher16 n s = .refused (.fletcherLength n) := if_neg (not_le.mpr long)

theorem execFletcher16_noFault (n : Byte) (s : State) : NoFault (execFletcher16 n s) := by
  rcases le_or_gt n.toNat 58 with short | long
  · exact execFletcher16_of_le short ▸ noFault_next _
  · exact execFletcher16_of_gt long ▸ noFault_refused _

/-- Settles O35: the two operations that call the channel complete in their closed forms, and the others make no
call. -/
theorem operationsNeverFault : Obligations.OperationsNeverFault := by
  intro i s
  cases i with
  | hdrsum a b => exact noFault_next _
  | fletcher16 n => exact execFletcher16_noFault n s
  | frameRead => exact exec_frameRead s ▸ noFault_next _
  | frameWrite n => exact exec_frameWrite_eq_next n s ▸ noFault_next _
  | rstatGet => exact noFault_next _
  | wstatGet => exact noFault_next _
  | reserved6 => exact noFault_refused _
  | reserved7 => exact noFault_refused _

/-! ### One call of an operation in progress -/

section advance
variable {s : State}

/-- A sequence that begins with `readByte` where a byte is ready faults only behind it. -/
theorem readByte_andThen_noFault {k : Byte × State → StepOutcome} (ready : 1 ≤ s.rxq.length)
    (goesOn : ∀ b rest, NoFault (k (b, { s with rxq := rest }))) : NoFault (andThen (readByte s) k) := by
  cases hq : s.rxq with
  | nil => simp [hq] at ready
  | cons b rest =>
    rw [readByte_cons hq, andThen_ok]
    exact goesOn b rest

/-- After a byte of step 7 or 8: what is stored is never longer than the payload, and so fits OUT. -/
theorem collect_noFault {L : Byte} {CK : Word16} {P : List Byte} (bound : L.toNat ≤ 63)
    (upTo : P.length ≤ L.toNat - 5) : NoFault (collect L CK P s) := by
  have short : P.length ≤ 58 := by omega
  exact noFault_ite (noFault_next _) (deliver_of_le short ▸ noFault_next _)

/-- The first call of FRAME_WRITE reads IN only when the length is within the format. -/
theorem advanceFrom_writeCheck_noFault (n : Byte) (s : State) : NoFault (advanceFrom (.writeCheck n) s) := by
  cases check : writeCheckStatus n s with
  | some st =>
    simp only [advanceFrom, check]
    exact noFault_next _
  | none =>
    obtain ⟨-, short⟩ := writeCheckStatus_eq_none.mp check
    simp only [advanceFrom, check, loadIn_of_le short, andThen_ok]
    exact noFault_next _

/-- A call whose bytes are ready, or whose room is left, does not fault (R46, R48). -/
theorem advanceFrom_noFault {f : InFlight} (fits : f.fits s) : NoFault (advanceFrom f s) := by
  cases f with
  | readCheck => exact noFault_next _
  | readCount L => exact noFault_next _
  | drainCheck => exact noFault_next _
  | readStart => exact readByte_andThen_noFault (le_trans (by decide) fits) fun _ _ => noFault_next _
  | readLength S => exact readByte_andThen_noFault (le_trans (by decide) fits) fun _ _ => noFault_next _
  | readHsum S L => exact readByte_andThen_noFault (le_trans (by decide) fits) fun _ _ => noFault_next _
  | drainRead => exact readByte_andThen_noFault fits fun _ _ => noFault_next _
  | readCkHigh L =>
    obtain ⟨total, -, left⟩ := fits
    exact readByte_andThen_noFault (by omega) fun _ _ => noFault_next _
  | readCkLow L hi =>
    obtain ⟨total, bound, left⟩ := fits
    exact readByte_andThen_noFault (by omega) fun _ _ => collect_noFault bound (Nat.zero_le _)
  | readPayload L CK P =>
    obtain ⟨bound, more, left⟩ := fits
    exact readByte_andThen_noFault (by omega) fun _ _ => collect_noFault bound (by simpa using more)
  | writeCheck n => exact advanceFrom_writeCheck_noFault n s
  | writeNext T pending =>
    obtain ⟨-, -, -, room⟩ := fits
    cases pending with
    | nil => exact noFault_next _
    | cons b pending =>
      simp only [List.length_cons] at room
      simp only [advanceFrom, writeByte_of_room (show s.txq.length < s.cfg.txDepth by omega), andThen_ok]
      exact noFault_next _

theorem advance_noFault (good : s.Inv) : NoFault (advance s) := by
  unfold advance
  split
  · exact noFault_next _
  · exact advanceFrom_noFault (good.inFlight_fits _ ‹_›)

end advance

/-! ### The lines of a script -/

theorem runCommand_noFault (cw : CmdWord) (s : State) : NoFault (runCommand cw s) := by
  refine noFault_ite (noFault_refused _) ?_
  cases decode cw with
  | error e => exact refuseWord_noFault e
  | ok i => exact operationsNeverFault i s

theorem startCommand_noFault (cw : CmdWord) (s : State) : NoFault (startCommand cw s) := by
  refine noFault_ite (noFault_refused _) (noFault_ite (noFault_refused _) ?_)
  cases decode cw with
  | error e => exact refuseWord_noFault e
  | ok i =>
    cases first : firstCall i with
    | none => simpa only [first] using operationsNeverFault i s
    | some f => simpa only [first] using noFault_next _

/-- In a good state no line faults; only the calls of an operation in progress rely on the state. -/
theorem runEvent_noFault {s : State} (e : Event) (good : s.Inv) : NoFault (runEvent e s) := by
  cases e with
  | command cw => exact runCommand_noFault cw s
  | start cw => exact startCommand_noFault cw s
  | advance => exact advance_noFault good
  | writeIn at_ bs => exact noFault_ite (noFault_refused _) (noFault_ite (noFault_next _) (noFault_refused _))
  | writeOut at_ bs => exact noFault_ite (noFault_refused _) (noFault_ite (noFault_next _) (noFault_refused _))
  | rxArrive bs => exact noFault_ite (noFault_next _) (noFault_refused _)
  | txDepart m => exact noFault_ite (noFault_next _) (noFault_refused _)
  | txDepartAll => exact noFault_next _
  | loopback => exact noFault_next _

/-- The script and the result port are no part of what makes a state good. -/
theorem State.Inv.of_script_result {s : State} (good : s.Inv) (script : List Event) (result : Option OpResult) :
    State.Inv { s with script := script, result := result } :=
  good.of_environment { good.buffersFit with } rfl (Nat.le_refl _) (Nat.le_refl _) rfl

/-- Settles O48: an idle step answers the same state, and no line faults in a good one. -/
theorem goodStatesNeverFault : Obligations.GoodStatesNeverFault := by
  intro s good
  cases line : s.script with
  | nil => exact nothingHappensWithoutACaller s line ▸ noFault_next s
  | cons e rest => exact step_cons line ▸ runEvent_noFault e (good.of_script_result rest none)

/-! ### Runs -/

/-- Every state right after reset is good: the queues are empty and nothing is in progress (R200). -/
theorem State.AtReset.inv {s : State} (reset : s.AtReset) : s.Inv := by
  obtain ⟨outBuf_wf, inBuf_wf, fields⟩ := reset
  have rxq : s.rxq = [] := congrArg State.rxq fields
  have txq : s.txq = [] := congrArg State.txq fields
  have idle : s.inFlight = none := congrArg State.inFlight fields
  exact BuffersFit.inv_of_idle ⟨by simp [rxq], by simp [txq], outBuf_wf, inBuf_wf⟩ idle

theorem State.Inv.supply {s : State} (good : s.Inv) (more : List Event) : (s.supply more).Inv :=
  good.of_script_result (s.script ++ more) s.result

theorem StepsTo.keeps_inv {s t : State} (good : s.Inv) (steps : StepsTo s t) : t.Inv := by
  obtain ⟨more, -, ends⟩ := steps
  exact everyStepKeepsTheInvariant _ t (good.supply more) ends

/-- Settles O50, by induction along the run: the lines supplied to a good state leave it good. -/
theorem everyRunStaysGood : Obligations.EveryRunStaysGood := by
  intro len σ run i within
  have good : (σ i).Inv := run.induction (fun _ => State.AtReset.inv) (fun _ _ => StepsTo.keeps_inv) i within
  exact ⟨good, fun more => goodStatesNeverFault _ (good.supply more)⟩

end Sys2Proof.Machine

/-! SUPPORT. The queues between the block and its environment: arrivals and departures with their end states, and the
order of the outbound bytes (R50, R51, R52, R85). -/

namespace Sys2Proof.Machine

/-! ### Arrivals and departures -/

theorem rxArrive_of_noRoom {bs : List Byte} {s : State} (full : ¬ s.rxq.length + bs.length ≤ s.cfg.rxDepth) :
    rxArrive bs s = .refused .rxDepthExceeded := if_neg full

theorem txDepart_of_held {m : Nat} {s : State} (held : 1 ≤ m ∧ m ≤ s.txq.length) :
    txDepart m s = .next (moveToLine m s) := if_pos held

theorem txDepart_of_notHeld {m : Nat} {s : State} (notHeld : ¬(1 ≤ m ∧ m ≤ s.txq.length)) :
    txDepart m s = .refused .txDepartCount := if_neg notHeld

theorem moveToLine_all (s : State) : moveToLine s.txq.length s = { s with line := s.line ++ s.txq, txq := [] } := by
  simp [moveToLine]

/-- Settles O40: the line is `rxArrive`, with or without room. -/
theorem rxArriveAppends : Obligations.RxArriveAppends := by
  intro s bs rest line
  rw [step_cons line]
  split
  · exact rxArrive_of_room (s := beginStep rest s) ‹_›
  · exact rxArrive_of_noRoom (s := beginStep rest s) ‹_›

/-- Settles O41: what is gone and what is left are the two parts of TXQ that `moveToLine` cuts it into. -/
theorem txDepartMovesToLine : Obligations.TxDepartMovesToLine := by
  intro s m rest line
  rw [step_cons line]
  refine ⟨fun held => ?_, txDepart_of_notHeld (s := beginStep rest s)⟩
  refine ⟨s.txq.take m, s.txq.drop m, (List.take_append_drop m s.txq).symm, List.length_take_of_le held.2,
    txDepart_of_held (s := beginStep rest s) held, fun fits => ?_⟩
  rw [List.length_drop]
  omega

/-- Settles O42: TX_DEPART all is `moveToLine` of the whole TXQ. -/
theorem txDepartAllEmptiesTxq : Obligations.TxDepartAllEmptiesTxq := by
  intro s rest line
  rw [step_cons line]
  exact congrArg Host.Outcome.next (moveToLine_all (beginStep rest s))

/-! ### The outbound order -/

/-- LINE, and LINE followed by TXQ, are only extended at their end (R52). -/
structure OutboundGrows (s t : State) : Prop where
  bytes : (s.line ++ s.txq) <+: (t.line ++ t.txq)
  line : s.line <+: t.line

/-- What only enqueues keeps the order. -/
theorem OutboundGrows.of_enqueue {s t : State} (line : t.line = s.line) (txq : s.txq <+: t.txq) :
    OutboundGrows s t where
  bytes := line ▸ (List.prefix_append_right_inj s.line).mpr txq
  line := line ▸ List.prefix_rfl

/-- What changes neither LINE nor TXQ keeps the order. -/
theorem OutboundGrows.of_eq {s t : State} (line : t.line = s.line) (txq : t.txq = s.txq) : OutboundGrows s t :=
  .of_enqueue line (txq ▸ List.prefix_rfl)

/-- A departure moves the boundary between LINE and TXQ. -/
theorem moveToLine_outboundGrows (m : Nat) (s : State) : OutboundGrows s (moveToLine m s) where
  bytes := moveToLine_line_append_txq m s ▸ List.prefix_rfl
  line := List.prefix_append s.line (s.txq.take m)

theorem exec_outboundGrows {i : Instr} {s t : State} (h : exec i s = .next t) : OutboundGrows s t := by
  rcases exec_eq_next h with ⟨-, rfl⟩ | ⟨n, -, rfl⟩ | ⟨-, -, r, rfl⟩
  · exact .of_eq rfl rfl
  · exact .of_enqueue rfl (List.prefix_append s.txq (enqueued n s))
  · exact .of_eq rfl rfl

theorem afterWrite_txq (T : Nat) (pending : List Byte) (s : State) : (afterWrite T pending s).txq = s.txq := by
  unfold afterWrite
  split <;> rfl

/-- A call of FRAME_WRITE enqueues a byte or nothing. -/
theorem advanceFrom_txq_prefix {f : InFlight} {s t : State} (writes : f.isRead = false)
    (h : advanceFrom f s = .next t) : s.txq <+: t.txq := by
  cases f with
  | writeCheck n =>
    obtain ⟨st, rfl⟩ | ⟨-, -, rfl⟩ := advanceFrom_writeCheck_eq_next h
    · exact List.prefix_rfl
    · exact List.prefix_rfl
  | writeNext T pending =>
    cases pending with
    | nil =>
      cases h
      exact List.prefix_rfl
    | cons b pending =>
      obtain ⟨-, rfl⟩ := advanceFrom_writeNext_cons_eq_next h
      rw [afterWrite_txq]
      exact List.prefix_append s.txq [b]
  | _ => cases writes

theorem advance_outboundGrows {s t : State} (h : advance s = .next t) : OutboundGrows s t := by
  unfold advance at h
  split at h
  · cases h
    exact .of_eq rfl rfl
  · rename_i f _
    cases reads : f.isRead with
    | true =>
      have frame := advanceFrom_readerFrame reads h
      exact .of_eq frame.line frame.txq
    | false => exact .of_enqueue (advanceFrom_writerFrame reads h).line (advanceFrom_txq_prefix reads h)

theorem runEvent_outboundGrows {e : Event} {s t : State} (h : runEvent e s = .next t) : OutboundGrows s t := by
  cases e with
  | command cw =>
    obtain ⟨-, i, -, ran⟩ := runCommand_eq_next h
    exact exec_outboundGrows ran
  | start cw =>
    obtain ⟨-, -, i, -, ⟨-, ran⟩ | ⟨f, -, rfl⟩⟩ := startCommand_eq_next h
    · exact exec_outboundGrows ran
    · exact .of_eq rfl rfl
  | advance => exact advance_outboundGrows h
  | writeIn at_ bs =>
    obtain ⟨-, -, rfl⟩ := callerWriteIn_eq_next h
    exact .of_eq rfl rfl
  | writeOut at_ bs =>
    obtain ⟨-, -, rfl⟩ := callerWriteOut_eq_next h
    exact .of_eq rfl rfl
  | rxArrive bs =>
    obtain ⟨-, rfl⟩ := rxArrive_eq_next h
    exact .of_eq rfl rfl
  | txDepart m =>
    obtain ⟨-, -, rfl⟩ := txDepart_eq_next h
    exact moveToLine_outboundGrows m s
  | txDepartAll =>
    cases h
    exact moveToLine_outboundGrows s.txq.length s
  | loopback =>
    cases h
    obtain ⟨bytes, line⟩ := moveToLine_outboundGrows s.txq.length s
    exact ⟨bytes, line⟩

/-- Settles O44: every line only enqueues, or moves the boundary between LINE and TXQ. -/
theorem outboundOrderKept : Obligations.OutboundOrderKept := by
  intro s t ends
  cases line : s.script with
  | nil =>
    cases (nothingHappensWithoutACaller s line).symm.trans ends
    exact ⟨List.prefix_rfl, List.prefix_rfl⟩
  | cons e rest =>
    rw [step_cons line] at ends
    obtain ⟨bytes, line⟩ := runEvent_outboundGrows ends
    exact ⟨bytes, line⟩

end Sys2Proof.Machine

/-! SUPPORT. A frame whose checksum bytes stand in either order: the header passes, and the verdict is the comparison of
the checksum (R41, R130, R213). -/

namespace Sys2Proof.Machine

/-- The header that R77 gives a payload of at most 58 bytes passes the three tests on it (R125 to R127). -/
theorem prefixStatus_of_payloadLength {k : Nat} (short : k ≤ 58) :
    prefixStatus 170#8 (BitVec.ofNat 8 (k + 5)) (BitVec.ofNat 8 (175 + k)) = none := by
  refine prefixStatus_eq_none.mpr ⟨rfl, by simp; omega, BitVec.eq_of_toNat_eq ?_⟩
  rw [hdrsum_toNat]
  simp
  omega

/-- Behind the right header of a payload FRAME_READ can receive, the checksum alone decides (R130, R131). -/
theorem readVerdict_of_header {c : Config} {hi lo : Byte} {p : List Byte} (nonempty : 1 ≤ p.length)
    (short : p.length ≤ 58) :
    readVerdict c ([170#8, BitVec.ofNat 8 (p.length + 5), BitVec.ofNat 8 (175 + p.length), hi, lo] ++ p)
      = if fletcher16 p = joinBigEndian hi lo then .ok else .dataChecksum := by
  have enough : minReadyCount c.rxMinReady ≤ p.length + 5 := by
    rw [minReadyCount_eq]
    split <;> omega
  have count : p.length + 5 = (BitVec.ofNat 8 (p.length + 5)).toNat := by
    rw [BitVec.toNat_ofNat]
    omega
  have passes := statusBeforePayload_cons (S := 170#8) (L := BitVec.ofNat 8 (p.length + 5))
    (H := BitVec.ofNat 8 (175 + p.length)) (hi := hi) (lo := lo) enough
  rw [prefixStatus_of_payloadLength short, if_pos count, Option.or_none] at passes
  simp [readVerdict, wireChecksum, passes]

/-- A 16-bit value read with its bytes exchanged is the same value exactly when they are equal. -/
theorem eq_joinBigEndian_low_high {v : Word16} :
    v = joinBigEndian (lowByte v) (highByte v) ↔ highByte v = lowByte v := by
  simp only [← BitVec.toNat_inj, joinBigEndian_toNat, highByte_toNat, lowByte_toNat]
  omega

/-- Settles O28: the header is right, and the exchanged checksum is compared with the computed one. -/
theorem lowByteFirstPeerRejected : Obligations.LowByteFirstPeerRejected := by
  intro s p nonempty short ready
  refine ⟨_, exec_frameRead s, ?_⟩
  change readVerdict s.cfg s.rxq = _
  rw [ready, readVerdict_of_header nonempty short]
  simp only [eq_joinBigEndian_low_high]

end Sys2Proof.Machine

/-! SUPPORT. The command word as its three fields, and the decoder as the table of R82: which row a word is, and which
words are a given row (R81, R82, R83). -/

namespace Sys2Proof

open Sys2Proof.Laws.OpBits (opCode)

/-! ### A word is its fields -/

theorem commandWord_fields (cw : CmdWord) : commandWord (opField cw) (aField cw) (bField cw) = cw := by
  apply BitVec.eq_of_toNat_eq
  simp only [commandWord_toNat, opField, aField, bField, BitVec.extractLsb'_toNat, Nat.shiftRight_eq_div_pow]
  omega

theorem eq_commandWord_iff {cw : CmdWord} {op : BitVec 3} {a b : Byte} :
    cw = commandWord op a b ↔ opField cw = op ∧ aField cw = a ∧ bField cw = b := by
  constructor
  · rintro rfl
    exact ⟨opField_commandWord op a b, aField_commandWord op a b, bField_commandWord op a b⟩
  · rintro ⟨rfl, rfl, rfl⟩
    exact (commandWord_fields cw).symm

/-- A masked word is compared field by field. -/
theorem and_eq_commandWord_iff {cw mask : CmdWord} {op : BitVec 3} {a b : Byte} :
    cw &&& mask = commandWord op a b
      ↔ opField cw &&& opField mask = op ∧ aField cw &&& aField mask = a ∧ bField cw &&& bField mask = b := by
  rw [eq_commandWord_iff]
  simp only [opField, aField, bField, BitVec.extractLsb'_and]

/-! ### The masks of `usedBits` -/

section masks
variable {cw : CmdWord} {op : BitVec 3} {a b : Byte}

/-- The mask of R82 keeps `op` alone. -/
theorem and_opMask_eq_commandWord_iff : cw &&& opMask = commandWord op 0#8 0#8 ↔ opField cw = op := by
  have keepsOp : opField opMask = BitVec.allOnes 3 := rfl
  have clearsA : aField opMask = 0#8 := rfl
  have clearsB : bField opMask = 0#8 := rfl
  simp only [and_eq_commandWord_iff, keepsOp, clearsA, clearsB, BitVec.and_allOnes, BitVec.and_zero, and_true]

/-- The mask of an operation with one operand keeps `op` and `b`. -/
theorem and_opMask_or_bMask_eq_commandWord_iff :
    cw &&& 0x700FF#19 = commandWord op 0#8 b ↔ opField cw = op ∧ bField cw = b := by
  have keepsOp : opField 0x700FF#19 = BitVec.allOnes 3 := rfl
  have clearsA : aField 0x700FF#19 = 0#8 := rfl
  have keepsB : bField 0x700FF#19 = BitVec.allOnes 8 := rfl
  simp only [and_eq_commandWord_iff, keepsOp, clearsA, keepsB, BitVec.and_allOnes, BitVec.and_zero, true_and]

/-- The mask of HDRSUM keeps the whole word. -/
theorem and_fullMask_eq_commandWord_iff :
    cw &&& 0x7FFFF#19 = commandWord op a b ↔ opField cw = op ∧ aField cw = a ∧ bField cw = b := by
  have keepsAll : 0x7FFFF#19 = BitVec.allOnes 19 := rfl
  rw [keepsAll, BitVec.and_allOnes, eq_commandWord_iff]

end masks

/-! ### The row of a word -/

/-- The row of R82's table that `op` names, with the operands it takes from `a` and `b`. -/
def tableRow (op : BitVec 3) (a b : Byte) : Instr :=
  if op = 0#3 then .hdrsum a b
  else if op = 1#3 then .fletcher16 b
  else if op = 2#3 then .frameRead
  else if op = 3#3 then .frameWrite b
  else if op = 4#3 then .rstatGet
  else if op = 5#3 then .wstatGet
  else if op = 6#3 then .reserved6
  else .reserved7

/-- What the decoder answers for a row: the row, but for FLETCHER16 with too great an operand (R83). -/
def selectRow : Instr → Except DecodeError Instr
  | .fletcher16 n => if n.toNat ≤ 58 then .ok (.fletcher16 n) else .error (.fletcherLength n)
  | i => .ok i

/-- The operands of the operation stand in the fields it takes them from (R81). -/
def OperandsIn (a b : Byte) : Instr → Prop
  | .hdrsum x y => a = x ∧ b = y
  | .fletcher16 n => b = n
  | .frameWrite n => b = n
  | _ => True

/-- The decoder is the table: the eight tests on the masked word are tests on `op` (R82). -/
theorem decode_eq_selectRow (cw : CmdWord) :
    decode cw = selectRow (tableRow (opField cw) (aField cw) (bField cw)) := by
  have row (op : BitVec 3) : cw &&& opMask = commandWord op 0#8 0#8 ↔ opField cw = op :=
    and_opMask_eq_commandWord_iff
  have row0 : cw &&& opMask = 0x00000#19 ↔ opField cw = 0#3 := row 0#3
  have row1 : cw &&& opMask = 0x10000#19 ↔ opField cw = 1#3 := row 1#3
  have row2 : cw &&& opMask = 0x20000#19 ↔ opField cw = 2#3 := row 2#3
  have row3 : cw &&& opMask = 0x30000#19 ↔ opField cw = 3#3 := row 3#3
  have row4 : cw &&& opMask = 0x40000#19 ↔ opField cw = 4#3 := row 4#3
  have row5 : cw &&& opMask = 0x50000#19 ↔ opField cw = 5#3 := row 5#3
  have row6 : cw &&& opMask = 0x60000#19 ↔ opField cw = 6#3 := row 6#3
  simp only [decode, row0, row1, row2, row3, row4, row5, row6, tableRow, apply_ite selectRow]
  rfl

theorem decode_commandWord (op : BitVec 3) (a b : Byte) :
    decode (commandWord op a b) = selectRow (tableRow op a b) := by
  rw [decode_eq_selectRow, opField_commandWord, aField_commandWord, bField_commandWord]

theorem selectRow_eq_ok_iff {row i : Instr} : selectRow row = .ok i ↔ i.wellFormed = true ∧ row = i := by
  constructor
  · intro selected
    cases row with
    | fletcher16 n =>
      by_cases short : n.toNat ≤ 58
      · cases (if_pos short).symm.trans selected
        exact ⟨decide_eq_true short, rfl⟩
      · cases (if_neg short).symm.trans selected
    | _ =>
      cases selected
      exact ⟨rfl, rfl⟩
  · rintro ⟨wf, rfl⟩
    cases row with
    | fletcher16 n => exact if_pos (of_decide_eq_true wf)
    | _ => rfl

theorem opCode_tableRow (op : BitVec 3) (a b : Byte) : opCode (tableRow op a b) = op := by
  unfold tableRow
  split_ifs <;> simp only [opCode] <;> bv_omega

theorem operandsIn_tableRow (op : BitVec 3) (a b : Byte) : OperandsIn a b (tableRow op a b) := by
  unfold tableRow
  split_ifs <;> simp [OperandsIn]

/-- A row is found by its code and its operands. -/
theorem tableRow_eq_iff {op : BitVec 3} {a b : Byte} {i : Instr} :
    tableRow op a b = i ↔ op = opCode i ∧ OperandsIn a b i := by
  constructor
  · rintro rfl
    exact ⟨(opCode_tableRow op a b).symm, operandsIn_tableRow op a b⟩
  · rintro ⟨rfl, operands⟩
    cases i with
    | hdrsum x y =>
      obtain ⟨rfl, rfl⟩ := operands
      rfl
    | fletcher16 n => exact congrArg Instr.fletcher16 operands
    | frameWrite n => exact congrArg Instr.frameWrite operands
    | _ => rfl

/-! ### The canonical words -/

theorem decode_eq_ok_iff {cw : CmdWord} {i : Instr} :
    decode cw = .ok i ↔ i.wellFormed = true ∧ opField cw = opCode i ∧ OperandsIn (aField cw) (bField cw) i := by
  rw [decode_eq_selectRow, selectRow_eq_ok_iff, tableRow_eq_iff]

theorem and_usedBits_eq_encode_iff {cw : CmdWord} {i : Instr} :
    cw &&& usedBits i = encode i ↔ opField cw = opCode i ∧ OperandsIn (aField cw) (bField cw) i := by
  cases i with
  | hdrsum a b => exact and_fullMask_eq_commandWord_iff
  | fletcher16 n => exact and_opMask_or_bMask_eq_commandWord_iff
  | frameWrite n => exact and_opMask_or_bMask_eq_commandWord_iff
  | _ => exact and_opMask_eq_commandWord_iff.trans (iff_of_eq (and_true _).symm)

/-- The canonical word has nothing in the fields its operation ignores (R81). -/
theorem encode_and_usedBits (i : Instr) : encode i &&& usedBits i = encode i := by
  rw [and_usedBits_eq_encode_iff]
  cases i with
  | hdrsum a b => exact eq_commandWord_iff.mp rfl
  | fletcher16 n => exact ⟨opField_commandWord _ _ _, bField_commandWord _ _ _⟩
  | frameWrite n => exact ⟨opField_commandWord _ _ _, bField_commandWord _ _ _⟩
  | _ => exact ⟨opField_commandWord _ _ _, trivial⟩

/-! ### The statements -/

/-- Settles O2: both sides say that `op` is the operation's code and its operands stand in their fields. -/
theorem decodeSelectsByUsedBits : Obligations.DecodeSelectsByUsedBits := by
  intro cw i
  rw [decode_eq_ok_iff, and_usedBits_eq_encode_iff]

/-- Settles O1: the canonical word is one of the words that select its operation. -/
theorem decodeOfEncode : Obligations.DecodeOfEncode := fun i wf =>
  (decodeSelectsByUsedBits (encode i) i).mpr ⟨wf, encode_and_usedBits i⟩

/-- Settles O3: each word is `commandWord` of its row's code, and each number the word's value. -/
theorem commandWordAsANumber : Obligations.CommandWordAsANumber := by
  intro a b word
  refine ⟨decode_commandWord 0#3 a b, decode_commandWord 1#3 a b, decode_commandWord 2#3 a b,
    decode_commandWord 3#3 a b, decode_commandWord 4#3 a b, decode_commandWord 5#3 a b, decode_commandWord 6#3 a b,
    decode_commandWord 7#3 a b, ?_, ?_, ?_, ?_, ?_, ?_⟩
  all_goals simp [encode, commandWord_toNat]

/-- Settles O4: nine closed evaluations of the decoder. -/
theorem specWordsDecode : Obligations.SpecWordsDecode := by
  unfold Obligations.SpecWordsDecode
  decide

end Sys2Proof

/-! SUPPORT. FRAME_READ succeeds on the valid frames, and the valid frames are the frames of R77 (R78, R131, R136). -/

namespace Sys2Proof.Machine

/-! ### The verdict -/

theorem minReadyCount_le_iff {c : RxMinReady} {n : Nat} :
    minReadyCount c ≤ n ↔ 5 ≤ n ∧ (c = .six → 6 ≤ n) := by
  cases c <;> simp [minReadyCount]
  omega

/-- The payload is read exactly when enough bytes are ready, the header is right and `L` is the number of ready
bytes. -/
theorem statusBeforePayload_eq_none_iff {c : Config} {q : List Byte} :
    statusBeforePayload c q = none
      ↔ minReadyCount c.rxMinReady ≤ q.length ∧ prefixStatus (q.getD 0 0#8) (q.getD 1 0#8) (q.getD 2 0#8) = none
        ∧ q.length = (q.getD 1 0#8).toNat := by
  rw [statusBeforePayload]
  by_cases few : q.length < minReadyCount c.rxMinReady
  · simp [few]
  · simp [few, not_lt.mp few]

theorem readVerdict_eq_ok_iff {c : Config} {q : List Byte} :
    readVerdict c q = .ok ↔ statusBeforePayload c q = none ∧ fletcher16 (q.drop 5) = wireChecksum q := by
  rw [readVerdict]
  cases before : statusBeforePayload c q with
  | none => simp
  | some st =>
    have notOk : st ≠ .ok := fun h => statusBeforePayload_ne_ok c q (h ▸ before)
    simp [notOk]

/-- Settles O21: the tests of FRAME_READ are the conditions of R78. -/
theorem frameReadAcceptsExactlyValidFrames : Obligations.FrameReadAcceptsExactlyValidFrames := by
  intro s
  refine ⟨_, exec_frameRead s, ?_⟩
  change readVerdict s.cfg s.rxq = .ok ↔ _
  rw [readVerdict_eq_ok_iff, statusBeforePayload_eq_none_iff, minReadyCount_le_iff, prefixStatus_eq_none]
  constructor
  · rintro ⟨⟨⟨five, six⟩, ⟨marker, short, header⟩, count⟩, checksum⟩
    exact ⟨⟨five, count ▸ short, marker, count.symm, header, checksum.symm⟩, six, count ▸ short⟩
  · rintro ⟨⟨five, short, marker, count, header, checksum⟩, six, -⟩
    exact ⟨⟨⟨five, six⟩, ⟨marker, count ▸ short, header⟩, count.symm⟩, checksum.symm⟩

/-! ### The frames -/

theorem highByte_joinBigEndian (hi lo : Byte) : highByte (joinBigEndian hi lo) = hi := by
  apply BitVec.eq_of_toNat_eq
  rw [highByte_toNat, joinBigEndian_toNat]; omega

theorem lowByte_joinBigEndian (hi lo : Byte) : lowByte (joinBigEndian hi lo) = lo := by
  apply BitVec.eq_of_toNat_eq
  rw [lowByte_toNat, joinBigEndian_toNat]; omega

theorem validFrame_frame {p : List Byte} (short : p.length ≤ 58) : validFrame (frame p) := by
  refine ⟨by simp, by simpa using short, rfl, ?_, rfl, joinBigEndian_high_low (fletcher16 p)⟩
  rw [length_frame]
  change (BitVec.ofNat 8 (p.length + 5)).toNat = p.length + 5
  rw [BitVec.toNat_ofNat]
  omega

theorem eq_frame_of_validFrame {f : List Byte} (valid : validFrame f) : f = frame (f.drop 5) := by
  obtain ⟨five, -, marker, count, header, checksum⟩ := valid
  obtain ⟨S, L, H, hi, lo, p, rfl⟩ := exists_five_of_le five
  have total : L = BitVec.ofNat 8 (p.length + 5) := by
    rw [show p.length + 5 = L.toNat from count.symm, BitVec.ofNat_toNat, BitVec.setWidth_eq]
  change S = startMarker at marker
  change H = hdrsum S L at header
  change joinBigEndian hi lo = fletcher16 p at checksum
  change _ = [startMarker, BitVec.ofNat 8 (p.length + 5), hdrsum startMarker (BitVec.ofNat 8 (p.length + 5)),
    highByte (fletcher16 p), lowByte (fletcher16 p)] ++ p
  rw [← checksum, highByte_joinBigEndian, lowByte_joinBigEndian, ← total, header, marker]
  rfl

/-- Settles O32: R77 builds what R78 asks for, and R78 fixes the five bytes before the payload. -/
theorem validFramesAreFrames : Obligations.ValidFramesAreFrames :=
  ⟨fun p short => ⟨validFrame_frame short, length_frame p⟩, fun _ => eq_frame_of_validFrame⟩

end Sys2Proof.Machine

/-! SUPPORT. What the command words of R83 do at the step: refused, or an operation that fails (R83, R105). -/

namespace Sys2Proof.Machine

theorem exec_reserved6 (s : State) : exec .reserved6 s = .refused .reservedOp6 := rfl

theorem exec_reserved7 (s : State) : exec .reserved7 s = .refused .reservedOp7 := rfl

/-- Settles O6: the two reserved rows, and FLETCHER16 beyond the 58 bytes of IN. -/
theorem reservedOperationsStop : Obligations.ReservedOperationsStop := fun s =>
  ⟨exec_reserved6 s, exec_reserved7 s, fun _ long => execFletcher16_of_gt long⟩

/-- A payload too long for the format is never written, whatever room there is (R153, R154). -/
theorem exec_frameWrite_of_long {n : Byte} {s : State} (long : 58 < n.toNat) :
    ∃ st : WriteStatus, st ≠ .ok ∧ exec (.frameWrite n) s = .next (failWrite st s) := by
  cases check : writeCheckStatus n s with
  | none => exact absurd (writeCheckStatus_eq_none.mp check).2 (not_le.mpr long)
  | some st => exact ⟨st, fun h => writeCheckStatus_ne_ok n s (h ▸ check), execFrameWrite_of_check check⟩

/-- Settles O5: the decoder finds the row by `op`, and the row's meaning stops or fails. -/
theorem reservedCommandsRefused : Obligations.ReservedCommandsRefused := by
  intro s cw rest line idle
  have idle₀ : (beginStep rest s).inFlight = none := idle
  have runs : step s = runCommand cw (beginStep rest s) := step_cons line
  refine ⟨fun op => ?_, fun op => ?_, fun op long => ?_, fun op long => ?_⟩
  · have row : decode cw = .ok .reserved6 := by rw [decode_eq_selectRow, op]; rfl
    rw [runs, runCommand_of_decode idle₀ row, exec_reserved6]
  · have row : decode cw = .ok .reserved7 := by rw [decode_eq_selectRow, op]; rfl
    rw [runs, runCommand_of_decode idle₀ row, exec_reserved7]
  · have row : decode cw = .error (.fletcherLength (bField cw)) := by
      rw [decode_eq_selectRow, op]
      exact if_neg (not_le.mpr long)
    rw [runs, runCommand_of_error idle₀ row]
    rfl
  · have row : decode cw = .ok (.frameWrite (bField cw)) := by rw [decode_eq_selectRow, op]; rfl
    obtain ⟨st, notOk, fails⟩ := exec_frameWrite_of_long (s := beginStep rest s) long
    exact ⟨_, st, notOk, runs.trans ((runCommand_of_decode idle₀ row).trans fails), rfl⟩

end Sys2Proof.Machine

/-! SUPPORT. A run of the machine step by step, and LOOPBACK as its two steps (R86). -/

namespace Sys2Proof.Machine

/-- A run takes its first step. -/
theorem run_core_succ {s t : State} (k : Nat) (h : step s = .next t) :
    Host.Core.run core (k + 1) s = Host.Core.run core k t := by
  have first : core.step s = .next t := h
  simp only [Host.Core.run, first]

/-- The first step of LOOPBACK empties TXQ onto LINE and leaves the arrival of the same bytes as the next line. -/
theorem loopback_eq_next (s : State) :
    loopback s
      = .next { s with line := s.line ++ s.txq, txq := [], script := .rxArrive s.txq :: s.script } := by
  rw [loopback, moveToLine_all]

/-- Settles O43: a departure of all of TXQ, then the arrival it left in the script, which has room. -/
theorem loopbackIsDepartThenArrive : Obligations.LoopbackIsDepartThenArrive := by
  intro s rest line room
  have departs := (step_cons line).trans (loopback_eq_next (beginStep rest s))
  rw [run_core_succ 1 departs]
  exact run_core_succ 0 ((rxArriveAppends _ s.txq rest rfl).trans (if_pos room))

end Sys2Proof.Machine

/-! SUPPORT. The two sums of FLETCHER16 without reduction, over a buffer and under a swap of two bytes, and the checksum
as their remainders mod 255 (R103 to R107). -/

namespace Sys2Proof.Machine

/-! ### The sums before reduction -/

/-- What `sum1` counts: the bytes of the sequence. -/
def byteSum (bs : List Byte) : Nat := (bs.map BitVec.toNat).sum

/-- What `sum2` counts: each byte once for itself and once for every byte after it. -/
def weightedSum : List Byte → Nat
  | [] => 0
  | x :: bs => (bs.length + 1) * x.toNat + weightedSum bs

@[simp] theorem byteSum_nil : byteSum [] = 0 := rfl

@[simp] theorem byteSum_cons (x : Byte) (bs : List Byte) : byteSum (x :: bs) = x.toNat + byteSum bs := by simp [byteSum]

@[simp] theorem byteSum_append (as bs : List Byte) : byteSum (as ++ bs) = byteSum as + byteSum bs := by simp [byteSum]

@[simp] theorem weightedSum_nil : weightedSum [] = 0 := rfl

@[simp] theorem weightedSum_cons (x : Byte) (bs : List Byte) :
    weightedSum (x :: bs) = (bs.length + 1) * x.toNat + weightedSum bs := rfl

/-- Every byte appended counts the bytes before it once more. -/
@[simp] theorem weightedSum_append (as bs : List Byte) :
    weightedSum (as ++ bs) = weightedSum as + bs.length * byteSum as + weightedSum bs := by
  induction as with
  | nil => simp
  | cons x as ih =>
    simp only [List.cons_append, weightedSum_cons, byteSum_cons, List.length_append, ih]
    ring

theorem byteSum_readRange (m : Memory) (at_ n : Nat) :
    byteSum (Memory.readRange m at_ n) = ∑ i ∈ Finset.range n, (Memory.read m (at_ + i)).toNat := by
  rw [byteSum, Memory.readRange_eq_map, List.map_map]
  rfl

/-- The closed form of R104 (d), for a range that starts anywhere. -/
theorem weightedSum_readRange (m : Memory) (at_ n : Nat) :
    weightedSum (Memory.readRange m at_ n)
      = ∑ i ∈ Finset.range n, (n - i) * (Memory.read m (at_ + i)).toNat := by
  induction n generalizing at_ with
  | zero => rfl
  | succ n ih =>
    simp only [Memory.readRange, weightedSum_cons, Memory.length_readRange, ih, Finset.sum_range_succ',
      Nat.add_sub_add_right, Nat.add_zero, Nat.sub_zero, Nat.add_right_comm, Nat.add_assoc]
    exact Nat.add_comm _ _

/-! ### Two bytes swapped -/

section swap
variable (front mid back : List Byte) (x y : Byte)

theorem byteSum_swap :
    byteSum (front ++ [x] ++ mid ++ [y] ++ back) = byteSum (front ++ [y] ++ mid ++ [x] ++ back) := by
  simp only [byteSum_append, byteSum_cons, byteSum_nil]
  omega

/-- The later place counts `mid.length + 1` times less (R104 (f)). -/
theorem weightedSum_swap :
    (weightedSum (front ++ [y] ++ mid ++ [x] ++ back) : Int) - weightedSum (front ++ [x] ++ mid ++ [y] ++ back)
      = ((mid.length : Int) + 1) * ((y.toNat : Int) - (x.toNat : Int)) := by
  simp only [weightedSum_append, weightedSum_cons, weightedSum_nil, byteSum_append, byteSum_cons, byteSum_nil,
    List.length_cons, List.length_nil]
  push_cast
  ring

end swap

/-! ### The running sums -/

/-- Reducing at every byte or once at the end is the same. -/
theorem fletcherSums_eq (bs : List Byte) : fletcherSums bs = (byteSum bs % 255, weightedSum bs % 255) := by
  induction bs using List.reverseRecOn with
  | nil => rfl
  | append_singleton bs x ih =>
    rw [fletcherSums_append_singleton, ih]
    simp only [fletcherStep, flMod_eq, byteSum_append, byteSum_cons, byteSum_nil, weightedSum_append, weightedSum_cons,
      weightedSum_nil, List.length_cons, List.length_nil, Prod.mk.injEq]
    omega

theorem fletcher16_toNat_eq_sums (bs : List Byte) :
    (fletcher16 bs).toNat = (fletcherSums bs).2 * 256 + (fletcherSums bs).1 := by
  rw [fletcher16, fletcherSums_eq, BitVec.toNat_ofNat]
  omega

theorem fletcher16_toNat (bs : List Byte) :
    (fletcher16 bs).toNat = weightedSum bs % 255 * 256 + byteSum bs % 255 := by
  rw [fletcher16_toNat_eq_sums, fletcherSums_eq]

theorem fletcher16_eq_iff (as bs : List Byte) :
    fletcher16 as = fletcher16 bs
      ↔ byteSum as ≡ byteSum bs [MOD 255] ∧ weightedSum as ≡ weightedSum bs [MOD 255] := by
  rw [← BitVec.toNat_inj, fletcher16_toNat, fletcher16_toNat, Nat.ModEq, Nat.ModEq]
  omega

/-! ### The bytes 0 and 255 -/

/-- FL_MOD is 255, so a byte 255 moves both sums as a byte 0 does. -/
theorem fletcherStep_255 (sums : Nat × Nat) : fletcherStep sums 255#8 = fletcherStep sums 0#8 := by
  simp [fletcherStep]

theorem fletcher16_replace_0_by_255 (front back : List Byte) :
    fletcher16 (front ++ [255#8] ++ back) = fletcher16 (front ++ [0#8] ++ back) := by
  simp [fletcher16, fletcherSums, fletcherStep_255]

/-- Only 0 and 255 differ by a multiple of 255. -/
theorem toNat_modEq_255_iff {x y : Byte} (differ : x ≠ y) :
    x.toNat ≡ y.toNat [MOD 255] ↔ (x = 0#8 ∧ y = 255#8) ∨ (x = 255#8 ∧ y = 0#8) := by
  rw [Nat.ModEq]
  bv_omega

/-! ### The statements -/

/-- Settles O7: the result is `hdrsum`. -/
theorem hdrsumResult : Obligations.HdrsumResult := fun a b _ => ⟨hdrsum a b, rfl, hdrsum_toNat a b⟩

/-- Settles O8: the two bytes of the checksum are the two unreduced sums of the range read, mod 255. -/
theorem fletcher16Result : Obligations.Fletcher16Result := by
  intro n s short
  refine ⟨_, execFletcher16_of_le short, ?_⟩
  simp only [fletcher16_toNat, byteSum_readRange, weightedSum_readRange, Nat.zero_add]
  omega

/-- Settles O9: the two sums are the components of `fletcherSums`. -/
theorem fletcherRunningSums : Obligations.FletcherRunningSums :=
  ⟨fun bs => (fletcherSums bs).1, fun bs => (fletcherSums bs).2, rfl, rfl,
    fun bs x => by simp [fletcherSums_append_singleton, fletcherStep], fletcher16_toNat_eq_sums⟩

/-- Settles O10: each byte is a remainder mod 255. -/
theorem fletcherBytesAtMost254 : Obligations.FletcherBytesAtMost254 := by
  intro bs
  rw [highByte_toNat, lowByte_toNat, fletcher16_toNat]
  omega

/-- Settles O11: the loop takes the same step at a byte and at what replaces it. -/
theorem fletcherBlindTo255 : Obligations.FletcherBlindTo255 := by
  intro bs
  have sameStep (sums : Nat × Nat) (x : Byte) :
      fletcherStep sums (if x = 255#8 then 0#8 else x) = fletcherStep sums x := by
    split
    · next is255 => rw [is255, fletcherStep_255]
    · rfl
  simp only [fletcher16, fletcherSums, List.foldl_map, sameStep]

/-- Settles O12: the swap keeps the byte sum, and moves the weighted sum by `(j - i) * (y - x)`. -/
theorem fletcherSwapOfTwoBytes : Obligations.FletcherSwapOfTwoBytes := by
  intro front mid back x y
  rw [fletcher16_eq_iff, byteSum_swap, and_iff_right (Nat.ModEq.refl _), Nat.modEq_iff_dvd, weightedSum_swap,
    Nat.cast_ofNat]

/-- Settles O13: the byte sum catches every change but that between 0 and 255, and that one no sum catches. -/
theorem fletcherChangeOfOneByte : Obligations.FletcherChangeOfOneByte := by
  intro front back x y differ
  constructor
  · intro missed
    obtain ⟨sameBytes, -⟩ := (fletcher16_eq_iff _ _).mp missed
    simp only [byteSum_append, byteSum_cons, byteSum_nil, Nat.add_zero] at sameBytes
    exact (toNat_modEq_255_iff differ).mp
      (Nat.ModEq.add_left_cancel' _ (Nat.ModEq.add_right_cancel' _ sameBytes))
  · rintro (⟨rfl, rfl⟩ | ⟨rfl, rfl⟩)
    · exact (fletcher16_replace_0_by_255 front back).symm
    · exact fletcher16_replace_0_by_255 front back

end Sys2Proof.Machine

/-! SUPPORT. The outcomes of FRAME_READ row by row (R136): a failure on the header, a wrong checksum, or a delivered
payload; and what each leaves in OUT (R131, R132, R135). -/

namespace Sys2Proof.Machine

/-! ### The rows of R136 -/

/-- The tests of R124 to R128 as R136 writes them, on numbers. -/
theorem statusBeforePayload_eq_rows (c : Config) (q : List Byte) :
    statusBeforePayload c q
      = if q.length < minReadyCount c.rxMinReady then some .notEnoughBytes
        else if (q.getD 0 0#8).toNat ≠ 170 then some .startByteNotRecognized
        else if (q.getD 1 0#8).toNat > 63 then some .length
        else if (q.getD 2 0#8).toNat ≠ ((q.getD 0 0#8).toNat + (q.getD 1 0#8).toNat) % 256 then some .headerChecksum
        else if q.length ≠ (q.getD 1 0#8).toNat then some .dataLessThanLength
        else none := by
  have marker : (q.getD 0 0#8).toNat ≠ 170 ↔ q.getD 0 0#8 ≠ startMarker := by simp [← BitVec.toNat_inj]
  simp only [statusBeforePayload, prefixStatus, marker, ← hdrsum_toNat, ne_eq, BitVec.toNat_inj, msgMaxBytes_eq]
  split_ifs <;> rfl

/-- A failure on the header fixes the status, the result and OUT. -/
theorem readRow_of_status {s : State} {st : ReadStatus} (fails : statusBeforePayload s.cfg s.rxq = some st) :
    readVerdict s.cfg s.rxq = st
      ∧ pairIf (readVerdict s.cfg s.rxq = .ok) (s.rxq.length - 5) = ⟨false, 0#8⟩
      ∧ (afterFrameRead s).outBuf = s.outBuf := by
  have verdict : readVerdict s.cfg s.rxq = st := by simp [readVerdict, fails]
  have notOk : st ≠ .ok := fun h => statusBeforePayload_ne_ok s.cfg s.rxq (h ▸ fails)
  refine ⟨verdict, ?_, ?_⟩
  · rw [verdict, pairIf, if_neg notOk, failPair]
  · rw [afterFrameRead_of_status fails, failRead_outBuf]

/-- Behind a header that passes the checksum fixes the status and the result (R130). -/
theorem readVerdict_of_passes {c : Config} {q : List Byte} (passes : statusBeforePayload c q = none) :
    readVerdict c q = if fletcher16 (q.drop 5) = wireChecksum q then .ok else .dataChecksum := by
  simp [readVerdict, passes]

theorem afterFrameRead_outBuf (s : State) :
    (afterFrameRead s).outBuf
      = if payloadReachesOut s.cfg s.rxq then Memory.writeRange s.outBuf 0 (s.rxq.drop 5) else s.outBuf := rfl

/-- What OUT reads as once the payload is written there (R132). -/
theorem read_writeRange_payload (m : Memory) (q : List Byte) (a : Nat) :
    Memory.read (Memory.writeRange m 0 (q.drop 5)) a
      = if a < q.length - 5 then q.getD (5 + a) 0#8 else Memory.read m a := by
  rw [Memory.read_writeRange]
  simp

/-- The checksum on the wire as a number, its high byte first (R41). -/
theorem fletcher16_ne_wireChecksum_iff {q : List Byte} :
    (fletcher16 (q.drop 5)).toNat ≠ (q.getD 3 0#8).toNat * 256 + (q.getD 4 0#8).toNat
      ↔ fletcher16 (q.drop 5) ≠ wireChecksum q := by
  rw [← joinBigEndian_toNat, ne_eq, BitVec.toNat_inj, wireChecksum]

/-- The verdict is OK exactly on the frames FRAME_READ accepts (R131). -/
theorem readVerdict_eq_ok_iff_validFrame (s : State) :
    readVerdict s.cfg s.rxq = .ok
      ↔ validFrame s.rxq ∧ ((s.cfg.rxMinReady = .six → 6 ≤ s.rxq.length) ∧ s.rxq.length ≤ 63) := by
  obtain ⟨t, ends, accepts⟩ := frameReadAcceptsExactlyValidFrames s
  rw [exec_frameRead] at ends
  cases ends
  exact accepts

/-- Settles O16: the rows of the table are the branches of the tests on the header, then of the checksum. -/
theorem frameReadClosedForm : Obligations.FrameReadClosedForm := by
  intro s
  refine ⟨_, _, (afterFrameRead s).outBuf, exec_frameRead s, ?_, fun six => ?_⟩
  · have rows := statusBeforePayload_eq_rows s.cfg s.rxq
    simp only [← minReadyCount_eq, fletcher16_ne_wireChecksum_iff]
    split_ifs at rows ⊢ with few marker long header count checksum keeps
    · exact readRow_of_status rows
    · exact readRow_of_status rows
    · exact readRow_of_status rows
    · exact readRow_of_status rows
    · exact readRow_of_status rows
    · have verdict := (readVerdict_of_passes rows).trans (if_neg checksum)
      refine ⟨verdict, by simp [verdict, pairIf, failPair], ?_⟩
      rw [afterFrameRead_outBuf, if_neg (by simp [checksum, keeps])]
    · have verdict := (readVerdict_of_passes rows).trans (if_neg checksum)
      refine ⟨verdict, by simp [verdict, pairIf, failPair], ?_⟩
      rw [afterFrameRead_outBuf, if_pos ⟨rows, .inr keeps⟩]
      exact read_writeRange_payload _ _
    · have agrees := not_not.mp checksum
      have verdict := (readVerdict_of_passes rows).trans (if_pos agrees)
      refine ⟨verdict, by simp [verdict, pairIf, okPair], ?_⟩
      rw [afterFrameRead_outBuf, if_pos ⟨rows, .inl agrees⟩]
      exact read_writeRange_payload _ _
  · exact (readVerdict_eq_ok_iff_validFrame s).trans (by simp [six])

/-- Settles O17: the closed form of FRAME_READ drains RXQ. -/
theorem frameReadEmptiesRxq : Obligations.FrameReadEmptiesRxq := fun s => ⟨_, exec_frameRead s, rfl⟩

/-- Where OUT is kept from rejected payloads, a payload reaches it exactly on success (R132). -/
theorem payloadReachesOut_iff {c : Config} {q : List Byte} (keeps : c.outOnDataChecksum = .unchanged) :
    payloadReachesOut c q ↔ readVerdict c q = .ok := by
  simp [payloadReachesOut, readVerdict_eq_ok_iff, keeps]

/-- The count of a delivered payload is its length, without wrap (R27, R131). -/
theorem pairIf_count_of_delivery {s : State} (ok : readVerdict s.cfg s.rxq = .ok) :
    (pairIf (readVerdict s.cfg s.rxq = .ok) (s.rxq.length - 5)).count.toNat = s.rxq.length - 5 := by
  obtain ⟨-, -, short⟩ := (readVerdict_eq_ok_iff_validFrame s).mp ok
  simp only [pairIf, if_pos ok, okPair, BitVec.toNat_ofNat]
  omega

/-- Settles O18: OUT is written exactly on success, with the payload. -/
theorem frameReadOutBytes : Obligations.FrameReadOutBytes := by
  intro s keeps
  refine ⟨_, _, exec_frameRead s, rfl, fun fails a => ?_, fun ok => ?_⟩
  · have kept : ¬ payloadReachesOut s.cfg s.rxq := fun reaches => by
      simp [pairIf_ok.mpr ((payloadReachesOut_iff keeps).mp reaches)] at fails
    rw [afterFrameRead_outBuf, if_neg kept]
  · have verdict := pairIf_ok.mp ok
    rw [pairIf_count_of_delivery verdict, afterFrameRead_outBuf, if_pos ((payloadReachesOut_iff keeps).mpr verdict)]
    exact ⟨fun a inside => (read_writeRange_payload _ _ a).trans (if_pos inside),
      fun a outside => (read_writeRange_payload _ _ a).trans (if_neg (not_lt.mpr outside))⟩

/-- Settles O20: a delivered payload is all of a valid frame but its five header bytes. -/
theorem deliveredLengthBounds : Obligations.DeliveredLengthBounds := by
  intro s t k ends result
  rw [exec_frameRead] at ends
  cases ends
  have pair : pairIf (readVerdict s.cfg s.rxq = .ok) (s.rxq.length - 5) = ⟨true, k⟩ := by
    simpa [afterFrameRead] using result
  have ok : readVerdict s.cfg s.rxq = .ok := pairIf_ok.mp (congrArg OkCount.ok pair)
  have count := pairIf_count_of_delivery ok
  rw [pair] at count
  obtain ⟨⟨five, -⟩, six, short⟩ := (readVerdict_eq_ok_iff_validFrame s).mp ok
  change 5 ≤ _ at five
  change k.toNat = _ at count
  exact ⟨by omega, by omega, fun atSix => by have := six atSix; omega⟩

end Sys2Proof.Machine

/-! SUPPORT. Ready bytes that are nearly a valid frame: too few or too many of them, no payload, a header with a short
total length (R137, R204, R206, R208). -/

namespace Sys2Proof.Machine

/-- A failure on the header is how FRAME_READ ends. -/
theorem exec_frameRead_of_status {s : State} {st : ReadStatus} (fails : statusBeforePayload s.cfg s.rxq = some st) :
    exec .frameRead s = .next (failRead st s) := by rw [exec_frameRead, afterFrameRead_of_status fails]

/-- Below the first threshold nothing of the header is looked at (R124). -/
theorem exec_frameRead_of_few {s : State} (few : s.rxq.length < minReadyCount s.cfg.rxMinReady) :
    exec .frameRead s = .next (failRead .notEnoughBytes s) := exec_frameRead_of_status (if_pos few)

/-- The first three bytes of a valid frame pass the tests on them. -/
theorem prefixStatus_of_validFrame {f : List Byte} (valid : validFrame f) :
    prefixStatus (f.getD 0 0#8) (f.getD 1 0#8) (f.getD 2 0#8) = none := by
  obtain ⟨-, short, marker, count, header, -⟩ := valid
  exact prefixStatus_eq_none.mpr ⟨marker, count ▸ short, header⟩

/-- Behind the header of a valid frame, any number of bytes but its own fails (R128). -/
theorem exec_frameRead_of_wrongCount {s : State} {f : List Byte} (valid : validFrame f)
    (enough : minReadyCount s.cfg.rxMinReady ≤ s.rxq.length) (header : s.rxq.take 3 = f.take 3)
    (count : s.rxq.length ≠ f.length) : exec .frameRead s = .next (failRead .dataLessThanLength s) := by
  have same (i : Nat) (inHeader : i < 3) : s.rxq.getD i 0#8 = f.getD i 0#8 := by
    rw [List.getD_eq_getElem?_getD, ← List.getElem?_take_of_lt inHeader, header, List.getElem?_take_of_lt inHeader,
      ← List.getD_eq_getElem?_getD]
  have ⟨_, _, _, total, _⟩ := valid
  apply exec_frameRead_of_status
  rw [statusBeforePayload, if_neg (not_lt.mpr enough), same 0 (by decide), same 1 (by decide), same 2 (by decide),
    prefixStatus_of_validFrame valid, total, if_neg count]
  rfl

/-- Settles O24: the header passes, and more bytes are ready than its `L` says. -/
theorem frameWithExtraBytesLost : Obligations.FrameWithExtraBytesLost := by
  intro s f more valid extra ready
  have five : 5 ≤ f.length := valid.1
  have one : 1 ≤ more.length := List.length_pos_iff.mpr extra
  apply exec_frameRead_of_wrongCount valid
  · rw [ready, minReadyCount_le_iff, List.length_append]
    omega
  · rw [ready, List.take_append_of_le_length (by omega)]
  · rw [ready, List.length_append]
    omega

/-- Settles O26: too few bytes for the first test, or fewer than the header's `L` says. -/
theorem earlyPollDestroysFrame : Obligations.EarlyPollDestroysFrame := by
  intro s f m valid part ready
  have length : s.rxq.length = m := by rw [ready, List.length_take_of_le part.le]
  rw [← minReadyCount_eq]
  split
  · next few => exact exec_frameRead_of_few (length ▸ few)
  · next enough =>
    have five := minReadyCount_ge_five s.cfg.rxMinReady
    apply exec_frameRead_of_wrongCount valid
    · omega
    · rw [ready, List.take_take, Nat.min_eq_left (by omega)]
    · omega

/-- The frame of the empty payload. -/
theorem frame_nil : frame [] = [170#8, 5#8, 175#8, 0#8, 0#8] := by decide

/-- Settles O27: the frame of no byte is written like any other; read alone it is below the threshold of six bytes, and
followed by others it is a frame with extra bytes. -/
theorem emptyPayloadSentNotReceived : Obligations.EmptyPayloadSentNotReceived := by
  refine ⟨fun s room => ?_, fun s more atSix ready => ?_⟩
  · rw [← frame_nil]
    exact execFrameWrite_of_fits (n := 0#8) (Nat.le_sub_of_add_le' room) (by decide)
  · rw [← frame_nil] at ready
    split
    · next alone =>
      apply exec_frameRead_of_few
      rw [ready, alone, atSix]
      decide
    · next extra =>
      exact frameWithExtraBytesLost s (frame []) more (validFrame_frame (by decide)) extra ready

/-- Settles O22: the marker and the length pass, then the header checksum decides; with it right, more than `L` bytes
are ready. -/
theorem shortLengthRejected : Obligations.ShortLengthRejected := by
  intro s L H more ready six short
  have length : s.rxq.length = more.length + 3 := by simp [ready]
  have enough : ¬ s.rxq.length < minReadyCount s.cfg.rxMinReady := by
    rw [not_lt, minReadyCount_le_iff]
    omega
  have before : statusBeforePayload s.cfg s.rxq
      = some (if H.toNat = 170 + L.toNat then .dataLessThanLength else .headerChecksum) := by
    have fits : ¬ L.toNat > 63 := by omega
    have sum : (170 + L.toNat) % 256 = 170 + L.toNat := by omega
    have count : more.length + 3 ≠ L.toNat := by omega
    rw [statusBeforePayload_eq_rows, if_neg enough, length, ready]
    by_cases right : H.toNat = 170 + L.toNat <;> simp [fits, sum, count, right]
  exact ⟨_, exec_frameRead_of_status before, rfl, rfl, rfl⟩

end Sys2Proof.Machine

/-! SUPPORT. A valid frame with one bit flipped: the first test on the flipped byte fails, and no test before it
(R138). -/

namespace Sys2Proof.Machine

/-! ### One bit of a byte -/

/-- A byte with bit `j` flipped (R138). -/
abbrev flipBit (j : Nat) (x : Byte) : Byte := x ^^^ BitVec.twoPow 8 j

section flipBit
variable {j : Nat} (bit : j < 8)
include bit

theorem flipBit_ne (x : Byte) : flipBit j x ≠ x := fun same => by
  have := congrArg (fun y : Byte => y.getLsbD j) same
  simp [flipBit, bit] at this

/-- No one bit makes 255 of 0 or 0 of 255, the one change of a byte the checksum misses (R107 (c)). -/
theorem flipBit_caught (x : Byte) :
    ¬ ((flipBit j x = 0#8 ∧ x = 255#8) ∨ (flipBit j x = 255#8 ∧ x = 0#8)) := by
  rintro (⟨flipped, rfl⟩ | ⟨flipped, rfl⟩)
  · revert j; decide
  · revert j; decide

/-- Bits 6 and 7 are clear in the length byte of a valid frame, and with one of them set it is over the bound. -/
theorem flipBit_toNat_gt_63_iff {L : Byte} (short : L.toNat ≤ 63) : 63 < (flipBit j L).toNat ↔ 6 ≤ j := by
  have small : L.toNat < 2 ^ 6 := by omega
  have bounds : L.toNat ^^^ 2 ^ j < 2 ^ 6 ↔ 2 ^ j < 2 ^ 6 :=
    ⟨fun h => by simpa [← Nat.xor_assoc] using Nat.xor_lt_two_pow small h, Nat.xor_lt_two_pow small⟩
  rw [BitVec.toNat_xor, BitVec.toNat_twoPow, Nat.mod_eq_of_lt (Nat.pow_lt_pow_right (by decide) bit)]
  rw [Nat.pow_lt_pow_iff_right (by decide)] at bounds
  omega

end flipBit

theorem hdrsum_right_inj {S L L' : Byte} : hdrsum S L = hdrsum S L' ↔ L = L' := by
  rw [← BitVec.toNat_inj, ← BitVec.toNat_inj, hdrsum_toNat, hdrsum_toNat]
  omega

theorem joinBigEndian_inj {hi lo hi' lo' : Byte} :
    joinBigEndian hi lo = joinBigEndian hi' lo' ↔ hi = hi' ∧ lo = lo' := by
  simp only [← BitVec.toNat_inj, joinBigEndian_toNat]
  omega

/-- The checksum catches one flipped bit of the payload (R107 (c)). -/
theorem fletcher16_set_flipBit_ne {p : List Byte} {k j : Nat} (inside : k < p.length) (bit : j < 8) :
    fletcher16 (p.set k (flipBit j (p.getD k 0#8))) ≠ fletcher16 p := by
  have whole : p = p.take k ++ [p[k]] ++ p.drop (k + 1) := by simp
  have changed := fletcherChangeOfOneByte (p.take k) (p.drop (k + 1)) _ _ (flipBit_ne bit p[k])
  rw [← whole] at changed
  rw [List.getD_eq_getElem _ _ inside, List.set_eq_take_append_cons_drop, if_pos inside, List.append_cons]
  exact changed.not.mpr (flipBit_caught bit p[k])

section header
variable {c : Config} {S L H hi lo : Byte} {p : List Byte} (enough : minReadyCount c.rxMinReady ≤ p.length + 5)
include enough

/-- With enough bytes ready, a failing test on the first three is the verdict (R125 to R127). -/
theorem readVerdict_of_prefix {st : ReadStatus} (fails : prefixStatus S L H = some st) :
    readVerdict c (S :: L :: H :: hi :: lo :: p) = st := by
  simp [readVerdict, statusBeforePayload_cons enough, fails]

/-- Behind a header that passes, a wrong checksum is the verdict (R130). -/
theorem readVerdict_of_checksum (passes : prefixStatus S L H = none) (count : L.toNat = p.length + 5)
    (differs : fletcher16 p ≠ joinBigEndian hi lo) :
    readVerdict c (S :: L :: H :: hi :: lo :: p) = .dataChecksum := by
  simp [readVerdict, statusBeforePayload_cons enough, wireChecksum, passes, count, differs]

end header

/-- R138's table: which test a flipped bit `j` of byte `i` fails first. -/
def flipVerdict (i j : Nat) : ReadStatus :=
  if i = 0 then .startByteNotRecognized
  else if i = 1 then (if 6 ≤ j then .length else .headerChecksum)
  else if i = 2 then .headerChecksum
  else .dataChecksum

theorem flipVerdict_ne_ok (i j : Nat) : flipVerdict i j ≠ .ok := by
  unfold flipVerdict
  split_ifs <;> simp

/-- The first failing test on a valid frame with one bit flipped. -/
theorem readVerdict_flipBit {c : Config} {f : List Byte} {i j : Nat} (valid : validFrame f) (six : 6 ≤ f.length)
    (inside : i < f.length) (bit : j < 8) :
    readVerdict c (f.set i (flipBit j (f.getD i 0#8))) = flipVerdict i j := by
  obtain ⟨five, short, marker, count, header, checksum⟩ := valid
  obtain ⟨S, L, H, hi, lo, p, rfl⟩ := exists_five_of_le five
  change S = startMarker at marker
  change L.toNat = p.length + 5 at count
  change H = hdrsum S L at header
  change joinBigEndian hi lo = fletcher16 p at checksum
  have enough : minReadyCount c.rxMinReady ≤ p.length + 5 := minReadyCount_le_iff.mpr ⟨five, fun _ => six⟩
  have bound : L.toNat ≤ 63 := count ▸ short
  have passes : prefixStatus S L H = none := prefixStatus_eq_none.mpr ⟨marker, bound, header⟩
  match i with
  | 0 =>
    have fails : prefixStatus (flipBit j S) L H = some .startByteNotRecognized :=
      if_pos (marker ▸ flipBit_ne bit S)
    exact readVerdict_of_prefix enough fails
  | 1 =>
    have differs : H ≠ hdrsum S (flipBit j L) := fun same =>
      flipBit_ne bit L (hdrsum_right_inj.mp (header.symm.trans same)).symm
    have fails : prefixStatus S (flipBit j L) H = some (if 6 ≤ j then .length else .headerChecksum) := by
      rw [prefixStatus, if_neg (not_not.mpr marker), if_pos differs]
      simp only [gt_iff_lt, msgMaxBytes_eq, flipBit_toNat_gt_63_iff bit bound, apply_ite some]
    exact readVerdict_of_prefix enough fails
  | 2 =>
    have fails : prefixStatus S L (flipBit j H) = some .headerChecksum := by
      rw [prefixStatus, if_neg (not_not.mpr marker), if_neg (not_lt.mpr bound), if_pos (header ▸ flipBit_ne bit H)]
    exact readVerdict_of_prefix enough fails
  | 3 =>
    have differs : fletcher16 p ≠ joinBigEndian (flipBit j hi) lo := fun same =>
      flipBit_ne bit hi (joinBigEndian_inj.mp (checksum.trans same)).1.symm
    exact readVerdict_of_checksum enough passes count differs
  | 4 =>
    have differs : fletcher16 p ≠ joinBigEndian hi (flipBit j lo) := fun same =>
      flipBit_ne bit lo (joinBigEndian_inj.mp (checksum.trans same)).2.symm
    exact readVerdict_of_checksum enough passes count differs
  | k + 5 =>
    have differs := fletcher16_set_flipBit_ne (p := p) (k := k) (by simpa using inside) bit
    rw [← checksum] at differs
    exact readVerdict_of_checksum (by simpa using enough) passes (by simpa using count) differs

/-- Settles O23: the verdict is R138's, and with every verdict but OK the result is Fail. -/
theorem singleBitFlipRejected : Obligations.SingleBitFlipRejected := by
  intro s f i j valid six inside bit ready
  have verdict : readVerdict s.cfg s.rxq = flipVerdict i j := by
    rw [ready]
    exact readVerdict_flipBit valid six inside bit
  have rejected : readVerdict s.cfg s.rxq ≠ .ok := verdict ▸ flipVerdict_ne_ok i j
  refine ⟨_, exec_frameRead s, verdict, ?_⟩
  simp [afterFrameRead, pairIf, rejected, failPair]

end Sys2Proof.Machine

/-! SUPPORT. FRAME_READ call by call, as a path of calls on the channel from its start to the end state of the atomic
operation (R122, U4); and a path of calls as a run of as many lines `advance`. -/

namespace Sys2Proof.Machine

open Relation (ReflTransGen)

/-! ### Paths of calls -/

/-- The operation in progress in `s` makes one call and `t` is the state after it, whatever lines the script holds. -/
structure Calls (s t : State) : Prop where
  fresh : s.result = none
  makes : ∀ script : List Event, advance { s with script := script } = .next { t with script := script }

/-- A call is the step of a line `advance`. -/
theorem Calls.step {s t : State} (call : Calls s t) (script : List Event) :
    step { s with script := .advance :: script } = .next { t with script := script } := by
  rw [step_cons rfl, ← call.makes script]
  simp [runEvent, beginStep, call.fresh]

/-- A path of `k` calls is a run of `k` lines `advance`. -/
theorem run_of_calls {s t : State} (path : ReflTransGen Calls s t) (rest : List Event) :
    ∃ k : Nat,
      Host.Core.run core k { s with script := List.replicate k .advance ++ rest }
        = .next { t with script := rest } := by
  induction path using ReflTransGen.head_induction_on with
  | refl => exact ⟨0, rfl⟩
  | head call _ ih =>
    obtain ⟨k, runs⟩ := ih
    exact ⟨k + 1, (run_core_succ k (call.step _)).trans runs⟩

/-- An operation started call by call and followed by a path of calls from its first point. -/
theorem run_start_of_calls {s t : State} {i : Instr} {f : InFlight} {rest : List Event}
    (fine : s.cfg.atomicOps = false) (idle : s.inFlight = none) (wf : i.wellFormed = true)
    (first : firstCall i = some f) (path : ReflTransGen Calls (hold f (beginStep rest s)) t) :
    ∃ k : Nat,
      Host.Core.run core (k + 1) { s with script := .start (encode i) :: (List.replicate k Event.advance ++ rest) }
        = .next { t with script := rest } := by
  obtain ⟨k, runs⟩ := run_of_calls path rest
  refine ⟨k, (run_core_succ k ((step_cons rfl).trans ?_)).trans runs⟩
  exact startCommand_of_firstCall fine idle (decodeOfEncode i wf) first

/-! ### FRAME_READ -/

/-- The tests on the header do not look at the script. -/
theorem afterPrefix_withScript (S L H : Byte) (s : State) (script : List Event) :
    afterPrefix S L H { s with script := script } = { afterPrefix S L H s with script := script } := by
  unfold afterPrefix
  split <;> rfl

section frameRead
variable {s : State} (fresh : s.result = none)
include fresh

/-- The drain takes the ready bytes one by one and ends the failed operation (R121, R122). -/
theorem drain_calls (st : ReadStatus) (q : List Byte) :
    ReflTransGen Calls (beginDrain st { s with rxq := q }) (failRead st (release s)) := by
  induction q with
  | nil => exact .single ⟨fresh, fun _ => rfl⟩
  | cons b q ih =>
    have check : Calls (beginDrain st { s with rxq := b :: q })
        (hold .drainRead { s with rxq := b :: q, rstat := st }) := ⟨fresh, fun _ => rfl⟩
    have take : Calls (hold .drainRead { s with rxq := b :: q, rstat := st })
        (beginDrain st { s with rxq := q }) := ⟨fresh, fun _ => rfl⟩
    exact .head check (.head take ih)

/-- A failure on the header, once it is found, ends in the closed form. -/
theorem failure_calls {st : ReadStatus} (fails : statusBeforePayload s.cfg s.rxq = some st) (q : List Byte) :
    ReflTransGen Calls (beginDrain st { s with rxq := q }) (afterFrameRead (release s)) := by
  rw [afterFrameRead_of_status (s := release s) fails]
  exact drain_calls fresh st q

/-- Step 2 reads the three bytes of the header, and the last of its calls tests them (R123 to R127). -/
theorem header_calls (S L H : Byte) (q : List Byte) :
    ReflTransGen Calls (hold .readStart { s with rxq := S :: L :: H :: q })
      (afterPrefix S L H { s with rxq := q }) := by
  have start : Calls (hold .readStart { s with rxq := S :: L :: H :: q })
      (hold (.readLength S) { s with rxq := L :: H :: q }) := ⟨fresh, fun _ => rfl⟩
  have length : Calls (hold (.readLength S) { s with rxq := L :: H :: q })
      (hold (.readHsum S L) { s with rxq := H :: q }) := ⟨fresh, fun _ => rfl⟩
  have tests : Calls (hold (.readHsum S L) { s with rxq := H :: q }) (afterPrefix S L H { s with rxq := q }) :=
    ⟨fresh, fun script => congrArg Host.Outcome.next (afterPrefix_withScript S L H { s with rxq := q } script)⟩
  exact .head start (.head length (.single tests))

/-- A byte of step 7 or 8 that leaves payload bytes to read is followed by their calls, up to step 9 (R129). -/
theorem payload_calls {f : InFlight} {b L : Byte} {CK : Word16} {P p : List Byte} {t : State}
    (byte : ∀ script, advance { hold f { s with rxq := b :: p } with script := script }
      = collect L CK P { hold f { s with rxq := p } with script := script })
    (all : P.length + p.length = payloadLength L)
    (ends : ∀ script, deliver L CK (P ++ p) { release s with rxq := [], script := script }
      = .next { t with script := script }) :
    ReflTransGen Calls (hold f { s with rxq := b :: p }) t := by
  induction p generalizing f b P with
  | nil =>
    have complete : ¬ P.length < payloadLength L := not_lt.mpr all.ge
    refine .single ⟨fresh, fun script => ?_⟩
    rw [byte, collect, if_neg complete]
    simp only [List.append_nil] at ends
    exact ends script
  | cons c p ih =>
    rw [List.length_cons] at all
    have more : P.length < payloadLength L := by omega
    refine .head (b := hold (.readPayload L CK P) { s with rxq := c :: p })
      ⟨fresh, fun script => ?_⟩ (ih (fun _ => rfl) (P := P ++ [c]) ?_ ?_)
    · rw [byte, collect, if_pos more]
      rfl
    · rw [List.length_append, List.length_singleton]
      omega
    · simpa only [List.append_assoc, List.singleton_append] using ends

/-- Steps 6 to 9: the wrong count drains RXQ, and the right one is followed by the checksum and the payload (R128 to
R130). -/
theorem body_calls {S L H hi lo : Byte} {p : List Byte} (ready : s.rxq = S :: L :: H :: hi :: lo :: p)
    (enough : minReadyCount s.cfg.rxMinReady ≤ p.length + 5) (header : prefixStatus S L H = none) :
    ReflTransGen Calls (hold (.readCount L) { s with rxq := hi :: lo :: p }) (afterFrameRead (release s)) := by
  have tests : statusBeforePayload s.cfg s.rxq
      = if p.length + 5 = L.toNat then none else some .dataLessThanLength := by
    rw [ready, statusBeforePayload_cons enough, header, Option.none_or]
  have same : countDiffers (hi :: lo :: p).length L ↔ ¬ p.length + 5 = L.toNat := by
    rw [countDiffers_iff, List.length_cons, List.length_cons]
  by_cases count : p.length + 5 = L.toNat
  · have check : Calls (hold (.readCount L) { s with rxq := hi :: lo :: p })
        (hold (.readCkHigh L) { s with rxq := hi :: lo :: p }) :=
      ⟨fresh, fun _ => congrArg Host.Outcome.next (if_neg (same.not.mpr (not_not.mpr count)))⟩
    have high : Calls (hold (.readCkHigh L) { s with rxq := hi :: lo :: p })
        (hold (.readCkLow L hi) { s with rxq := lo :: p }) := ⟨fresh, fun _ => rfl⟩
    refine .head check (.head high (payload_calls fresh (P := []) (fun _ => rfl) ?_ fun script => ?_))
    · simp [← count]
    · exact deliver_eq_afterFrameRead (s := { release s with script := script }) ready
        (tests.trans (if_pos count)) count
  · have check : Calls (hold (.readCount L) { s with rxq := hi :: lo :: p })
        (beginDrain .dataLessThanLength { s with rxq := hi :: lo :: p }) :=
      ⟨fresh, fun _ => congrArg Host.Outcome.next (if_pos (same.mpr count))⟩
    exact .head check (failure_calls fresh (tests.trans (if_neg count)) _)

/-- FRAME_READ call by call ends in the closed form of the atomic operation. -/
theorem frameRead_calls : ReflTransGen Calls (hold .readCheck s) (afterFrameRead (release s)) := by
  by_cases few : s.rxq.length < minReadyCount s.cfg.rxMinReady
  · have check : Calls (hold .readCheck s) (beginDrain .notEnoughBytes s) :=
      ⟨fresh, fun _ => congrArg Host.Outcome.next (if_pos few)⟩
    exact .head check (failure_calls fresh (if_pos few) s.rxq)
  · have check : Calls (hold .readCheck s) (hold .readStart s) :=
      ⟨fresh, fun _ => congrArg Host.Outcome.next (if_neg few)⟩
    have five := minReadyCount_ge_five s.cfg.rxMinReady
    obtain ⟨S, L, H, hi, lo, p, ready⟩ := exists_five_of_le (q := s.rxq) (by omega)
    have enough : minReadyCount s.cfg.rxMinReady ≤ p.length + 5 := by
      simpa [ready] using few
    have header := header_calls fresh S L H (hi :: lo :: p)
    rw [← ready] at header
    refine .head check (header.trans ?_)
    unfold afterPrefix
    split
    · next st fails =>
      refine failure_calls fresh ?_ _
      rw [ready, statusBeforePayload_cons enough, fails, Option.some_or]
    · next passes => exact body_calls fresh ready enough passes

end frameRead

/-- Settles O53: the path of calls from the first point of FRAME_READ to its closed form. -/
theorem callByCallReadAgrees : Obligations.CallByCallReadAgrees := by
  intro s t rest fine idle ends
  rw [exec_frameRead] at ends
  cases ends
  have released : release (beginStep rest s) = beginStep rest s := by simp [release, beginStep, idle]
  have path := frameRead_calls (s := beginStep rest s) rfl
  rw [released] at path
  exact run_start_of_calls fine idle rfl rfl path

end Sys2Proof.Machine

/-! SUPPORT. FRAME_WRITE row by row (R159), with the bytes of its frame (R77, R156); from there which failure a long
payload gets (R161), and the round trip through FRAME_READ (R160). -/

namespace Sys2Proof.Machine

/-! ### The rows of R159 -/

/-- The tests of R153 and R154 as R159 writes them, on numbers. -/
theorem writeVerdict_eq_rows (n : Byte) (s : State) :
    writeVerdict n s
      = if s.cfg.txDepth - s.txq.length < n.toNat + 5 then .noBufferSpace
        else if 59 ≤ n.toNat then .messageTooLong
        else .ok := by
  have long : n.toNat + 5 > 63 ↔ 59 ≤ n.toNat := by omega
  simp only [writeVerdict, writeCheckStatus, availableForWrite, totalLength_eq, msgMaxBytes_eq, long]
  split_ifs <;> rfl

/-- A verdict other than OK is how FRAME_WRITE ends, with nothing enqueued (R153, R154). -/
theorem afterFrameWrite_of_fails {n : Byte} {s : State} (fails : writeVerdict n s ≠ .ok) :
    afterFrameWrite n s = failWrite (writeVerdict n s) s := by
  simp [afterFrameWrite, enqueued, pairIf, fails, failWrite]

/-- With the verdict OK the whole frame is enqueued (R155 to R157). -/
theorem afterFrameWrite_of_ok {n : Byte} {s : State} (ok : writeVerdict n s = .ok) :
    afterFrameWrite n s
      = endWrite .ok (okPair (n.toNat + 5))
          { s with txq := s.txq ++ frame (Memory.readRange s.inBuf 0 n.toNat) } := by
  simp [afterFrameWrite, enqueued, pairIf, ok]

/-! ### The bytes of the frame -/

theorem ofNat_toNat_add_five (n : Byte) : BitVec.ofNat 8 (n.toNat + 5) = n + 5#8 := by
  rw [BitVec.ofNat_add, BitVec.ofNat_toNat, BitVec.setWidth_eq]

theorem hdrsum_startMarker (n : Byte) : hdrsum startMarker (n + 5#8) = 175#8 + n := by
  apply BitVec.eq_of_toNat_eq
  simp only [hdrsum_toNat, BitVec.toNat_add, BitVec.toNat_ofNat]
  omega

/-- The frame of `n` bytes, its header in terms of the operand `n` (R77). -/
theorem frame_of_length {p : List Byte} {n : Byte} (length : p.length = n.toNat) :
    frame p = [170#8, n + 5#8, 175#8 + n, highByte (fletcher16 p), lowByte (fletcher16 p)] ++ p := by
  rw [frame, length, totalLength_eq, ofNat_toNat_add_five, hdrsum_startMarker]

/-! ### The statements -/

/-- Settles O29: the two failures and the success are the rows of the verdict. -/
theorem frameWriteClosedForm : Obligations.FrameWriteClosedForm := by
  intro n s
  have rows := writeVerdict_eq_rows n s
  have payload : Memory.readRange s.inBuf 0 n.toNat = (List.range n.toNat).map fun i => Memory.read s.inBuf i := by
    simp [Memory.readRange_eq_map]
  dsimp only
  rw [exec_frameWrite_eq_next, ← payload]
  split_ifs at rows ⊢ with full long
  · rw [afterFrameWrite_of_fails (by simp [rows]), rows]
    rfl
  · rw [afterFrameWrite_of_fails (by simp [rows]), rows]
    rfl
  · rw [afterFrameWrite_of_ok rows, frame_of_length (Memory.length_readRange _ _ _), okPair,
      ofNat_toNat_add_five]
    rfl

/-- Settles O30: a long payload fails either test, the one for room first; and 59 + 5 = 64 bytes of room are more than
a depth below 64 has. -/
theorem whichFailureForLongPayload : Obligations.WhichFailureForLongPayload := by
  refine ⟨fun n s long => ?_, fun n s t shallow ends => ?_⟩
  · have rows : writeVerdict n s
        = if n.toNat + 5 ≤ s.cfg.txDepth - s.txq.length then .messageTooLong else .noBufferSpace := by
      simp only [writeVerdict_eq_rows, if_pos long, ← not_le, ite_not]
    have fails : writeVerdict n s ≠ .ok := fun ok => by
      have short := (writeVerdict_eq_ok.mp ok).2
      omega
    refine ⟨_, exec_frameWrite_eq_next n s, rows, fun shallow => rows.trans (if_neg (by omega)), ?_⟩
    rw [afterFrameWrite_of_fails fails]
    exact ⟨rfl, rfl⟩
  · rw [exec_frameWrite_eq_next] at ends
    cases ends
    change writeVerdict n s ≠ .messageTooLong
    rw [writeVerdict_eq_rows]
    split_ifs with full long
    · simp
    · omega
    · simp

/-- The frame of a payload that fits, alone in RXQ, is delivered: OK, its length, its bytes in OUT (R131, R160). -/
theorem afterFrameRead_of_frame {u : State} {p : List Byte} (ready : u.rxq = frame p) (short : p.length ≤ 58)
    (enough : u.cfg.rxMinReady = .six → p ≠ []) :
    afterFrameRead u
      = endRead .ok (okPair p.length) { drain u with outBuf := Memory.writeRange u.outBuf 0 p } := by
  have six (atSix : u.cfg.rxMinReady = .six) : 6 ≤ u.rxq.length := by
    have := List.length_pos_iff.mpr (enough atSix)
    rw [ready, length_frame]
    omega
  have verdict : readVerdict u.cfg u.rxq = .ok := by
    refine (readVerdict_eq_ok_iff_validFrame u).mpr ⟨ready ▸ validFrame_frame short, six, ?_⟩
    rw [ready, length_frame]
    omega
  have reaches : payloadReachesOut u.cfg u.rxq := by
    obtain ⟨passes, checksum⟩ := readVerdict_eq_ok_iff.mp verdict
    exact ⟨passes, .inl checksum⟩
  have length : u.rxq.length - 5 = p.length := by simp [ready]
  have payload : u.rxq.drop 5 = p := by simp [ready, frame]
  rw [afterFrameRead, if_pos reaches, pairIf, if_pos verdict, verdict, length, payload]

/-- What OUT reads as once bytes of IN are written there from index 0 on. -/
theorem read_writeRange_readRange {out inp : Memory} {n i : Nat} (inside : i < n) :
    Memory.read (Memory.writeRange out 0 (Memory.readRange inp 0 n)) i = Memory.read inp i := by
  rw [Memory.read_writeRange, if_pos (by simpa using inside)]
  simp [Memory.readRange_eq_map, inside]

/-- Settles O31: FRAME_WRITE appended the frame of its payload, and FRAME_READ delivers that frame unless it is the
empty payload's five bytes where six have to be ready. -/
theorem roundTrip : Obligations.RoundTrip := by
  intro n s t u writes succeeds received
  rw [exec_frameWrite_eq_next] at writes
  cases writes
  have ok : writeVerdict n s = .ok := succeeds
  rw [afterFrameWrite_of_ok ok] at received ⊢
  have short := (writeVerdict_eq_ok.mp ok).2
  have ready : u.rxq = frame (Memory.readRange s.inBuf 0 n.toNat) := received.trans (List.drop_left ..)
  refine ⟨?_, _, exec_frameRead u, ?_⟩
  · rintro rfl
    exact congrArg (s.txq ++ ·) frame_nil
  · split
    · next empty =>
      obtain ⟨atSix, rfl⟩ := empty
      have few : u.rxq.length < minReadyCount u.cfg.rxMinReady := by
        rw [ready, atSix, length_frame, Memory.length_readRange]
        decide
      rw [afterFrameRead_of_status (if_pos few)]
      exact ⟨rfl, rfl⟩
    · next delivered =>
      have enough (atSix : u.cfg.rxMinReady = .six) : Memory.readRange s.inBuf 0 n.toNat ≠ [] := fun empty => by
        have zero : n.toNat = 0 := by simpa using congrArg List.length empty
        exact delivered ⟨atSix, BitVec.eq_of_toNat_eq zero⟩
      rw [afterFrameRead_of_frame ready (by simpa using short) enough]
      exact ⟨rfl, by simp [okPair], fun i inside => read_writeRange_readRange inside⟩

end Sys2Proof.Machine

/-! SUPPORT. FRAME_WRITE call by call, as a path of calls on the channel from its start to the end state of the atomic
operation (R152, U4). -/

namespace Sys2Proof.Machine

open Relation (ReflTransGen)

/-- What follows a `writeByte` does not look at where the operation stood. -/
theorem afterWrite_hold (T : Nat) (pending : List Byte) (f : InFlight) (s : State) :
    afterWrite T pending (hold f s) = afterWrite T pending s := by
  cases pending <;> rfl

/-- What follows a `writeByte` does not look at the script. -/
theorem afterWrite_withScript (T : Nat) (pending : List Byte) (s : State) (script : List Event) :
    afterWrite T pending { s with script := script } = { afterWrite T pending s with script := script } := by
  cases pending <;> rfl

/-- The first call of FRAME_WRITE, when a test fails, ends it (R153, R154). -/
theorem advanceFrom_writeCheck_of_fails {n : Byte} {s : State} {st : WriteStatus}
    (fails : writeCheckStatus n s = some st) :
    advanceFrom (.writeCheck n) s = .next (failWrite st (release s)) := by simp [advanceFrom, fails]

/-- The first call of FRAME_WRITE, when both tests pass, forms the frame whose bytes are to be enqueued (R155). -/
theorem advanceFrom_writeCheck_of_passes {n : Byte} {s : State} (passes : writeCheckStatus n s = none) :
    advanceFrom (.writeCheck n) s
      = .next (afterWrite (n.toNat + 5) (frame (Memory.readRange s.inBuf 0 n.toNat)) s) := by
  simp only [advanceFrom, passes, loadIn_of_le (writeCheckStatus_eq_none.mp passes).2, andThen_ok, totalLength_eq]
  rfl

theorem writeVerdict_release (n : Byte) (s : State) : writeVerdict n (release s) = writeVerdict n s := rfl

section frameWrite
variable {s : State} (fresh : s.result = none)
include fresh

/-- With room for all the pending bytes their calls enqueue them one by one, and the last one ends the operation (R156,
R157). -/
theorem pending_calls {T : Nat} {pending : List Byte} (room : s.txq.length + pending.length ≤ s.cfg.txDepth) :
    ReflTransGen Calls (afterWrite T pending s)
      (endWrite .ok (okPair T) (release { s with txq := s.txq ++ pending })) := by
  induction pending generalizing s with
  | nil =>
    rw [List.append_nil]
    exact .refl
  | cons b p ih =>
    rw [List.length_cons] at room
    have write : Calls (hold (.writeNext T (b :: p)) s) (afterWrite T p { s with txq := s.txq ++ [b] }) := by
      refine ⟨fresh, fun script => ?_⟩
      have byte := writeByte_of_room (b := b) (s := { hold (.writeNext T (b :: p)) s with script := script })
        (show s.txq.length < s.cfg.txDepth by omega)
      change andThen (writeByte b _) _ = _
      rw [byte, andThen_ok, ← afterWrite_withScript, ← afterWrite_hold T p (.writeNext T (b :: p))]
      rfl
    have rest := ih (s := { s with txq := s.txq ++ [b] }) fresh (by simpa [Nat.add_assoc, Nat.add_comm 1] using room)
    rw [List.append_assoc, List.singleton_append] at rest
    exact .head write rest

/-- FRAME_WRITE call by call ends in the closed form of the atomic operation. -/
theorem frameWrite_calls (n : Byte) : ReflTransGen Calls (hold (.writeCheck n) s) (afterFrameWrite n (release s)) := by
  cases check : writeCheckStatus n s with
  | some st =>
    have verdict : writeVerdict n (release s) = st := (writeVerdict_release n s).trans (by simp [writeVerdict, check])
    have fails : writeVerdict n (release s) ≠ .ok := fun ok =>
      writeCheckStatus_ne_ok n s (check.trans (congrArg some (verdict.symm.trans ok)))
    rw [afterFrameWrite_of_fails fails, verdict]
    exact .single ⟨fresh, fun _ => advanceFrom_writeCheck_of_fails check⟩
  | none =>
    have room : n.toNat + 5 ≤ s.cfg.txDepth - s.txq.length := (writeCheckStatus_eq_none.mp check).1
    have verdict : writeVerdict n (release s) = .ok := (writeVerdict_release n s).trans (by simp [writeVerdict, check])
    rw [afterFrameWrite_of_ok verdict]
    have first : Calls (hold (.writeCheck n) s)
        (afterWrite (n.toNat + 5) (frame (Memory.readRange s.inBuf 0 n.toNat)) s) :=
      ⟨fresh, fun _ => advanceFrom_writeCheck_of_passes check⟩
    refine .head first (pending_calls fresh ?_)
    rw [length_frame, Memory.length_readRange]
    omega

end frameWrite

/-- Settles O54: the path of calls from the first point of FRAME_WRITE to its closed form. -/
theorem callByCallWriteAgrees : Obligations.CallByCallWriteAgrees := by
  intro n s t rest fine idle ends
  rw [exec_frameWrite_eq_next] at ends
  cases ends
  have released : release (beginStep rest s) = beginStep rest s := by simp [release, beginStep, idle]
  have path := frameWrite_calls (s := beginStep rest s) rfl n
  rw [released] at path
  exact run_start_of_calls fine idle rfl rfl path

end Sys2Proof.Machine

/-! SUPPORT. What a leading byte that is no start marker costs (R205). -/

namespace Sys2Proof.Machine

/-- Of a first ready byte that is no start marker the tests see only whether enough bytes are ready (R124, R125). -/
theorem statusBeforePayload_of_badMarker {c : Config} {x : Byte} {more : List Byte} (bad : x ≠ startMarker) :
    statusBeforePayload c (x :: more)
      = some (if more.length + 1 < minReadyCount c.rxMinReady then .notEnoughBytes else .startByteNotRecognized) := by
  have marker (L H : Byte) : prefixStatus x L H = some .startByteNotRecognized := if_pos bad
  rw [statusBeforePayload, List.getD_cons_zero, marker, Option.some_or, List.length_cons, apply_ite some]

/-- Settles O25: a failure on the header drains RXQ. -/
theorem leadingGarbageCostsWindow : Obligations.LeadingGarbageCostsWindow := by
  intro s x more ready bad
  rw [← minReadyCount_eq]
  exact exec_frameRead_of_status (ready ▸ statusBeforePayload_of_badMarker bad)

end Sys2Proof.Machine

/-! SUPPORT. Reset, and two kinds of run from there: the one that carries out a sequence of operations, and the one that
a script drives (R200, R216). -/

namespace Sys2Proof.Machine

/-! ### Reset -/

theorem atReset_resetWith (c : Config) : (State.resetWith c).AtReset :=
  ⟨(Memory.wf_reset c).1, (Memory.wf_reset c).2, rfl⟩

/-- Settles O47: a reset state has nothing queued and nothing in progress. -/
theorem resetIsGood : Obligations.ResetIsGood :=
  ⟨fun c => (atReset_resetWith c).inv, (atReset_resetWith Config.standard).inv⟩

/-- Settles O55: the fields of the reset state, and the step of its empty script. -/
theorem resetValues : Obligations.ResetValues :=
  ⟨rfl, rfl, rfl, rfl, rfl, rfl, rfl, rfl, rfl, nothingHappensWithoutACaller State.reset rfl⟩

/-! ### The run of a sequence of operations -/

/-- The state an operation ends in; a state in which it does not complete is left as it is. -/
def afterOperation (i : Instr) (s : State) : State :=
  match exec i s with
  | .next t => t
  | .fault _ => s
  | .refused _ => s

/-- The states of a caller that invokes the operations one after another from reset on. -/
def operationStates (c : Config) (op : Nat → Instr) : Nat → State
  | 0 => State.resetWith c
  | i + 1 => afterOperation (op i) { operationStates c op i with result := none }

/-- An operation that is well-formed and not reserved completes in every state. -/
theorem exec_completes {i : Instr} (wf : i.wellFormed = true) (not6 : i ≠ .reserved6) (not7 : i ≠ .reserved7)
    (s : State) : ∃ t, exec i s = .next t := by
  cases i with
  | hdrsum a b => exact ⟨_, rfl⟩
  | fletcher16 n => exact ⟨_, execFletcher16_of_le (of_decide_eq_true wf)⟩
  | frameRead => exact ⟨_, exec_frameRead s⟩
  | frameWrite n => exact ⟨_, exec_frameWrite_eq_next n s⟩
  | rstatGet => exact ⟨_, rfl⟩
  | wstatGet => exact ⟨_, rfl⟩
  | reserved6 => exact absurd rfl not6
  | reserved7 => exact absurd rfl not7

theorem exec_eq_next_afterOperation {i : Instr} {s : State} (completes : ∃ t, exec i s = .next t) :
    exec i s = .next (afterOperation i s) := by
  obtain ⟨t, ends⟩ := completes
  simp only [afterOperation, ends]

/-- A caller between operations with no line left can invoke any well-formed operation that completes (R32). -/
theorem stepsTo_of_exec {i : Instr} {s t : State} (wf : i.wellFormed = true) (idle : s.inFlight = none)
    (empty : s.script = []) (ends : exec i { s with result := none } = .next t) : StepsTo s t := by
  have line : (s.supply [.command (encode i)]).script = [.command (encode i)] := by simp [empty]
  have begun : beginStep [] (s.supply [.command (encode i)]) = { s with result := none } := by
    simp [beginStep, State.supply, empty]
  refine ⟨[.command (encode i)], by simp, (step_cons line).trans ?_⟩
  rw [begun, ← ends]
  exact runCommand_of_decode (s := { s with result := none }) idle (decodeOfEncode i wf)

section operations
variable {c : Config} {op : Nat → Instr}
  (meaning : ∀ i, (op i).wellFormed = true ∧ op i ≠ .reserved6 ∧ op i ≠ .reserved7)
include meaning

theorem exec_operationStates (i : Nat) :
    exec (op i) { operationStates c op i with result := none } = .next (operationStates c op (i + 1)) := by
  obtain ⟨wf, not6, not7⟩ := meaning i
  exact exec_eq_next_afterOperation (exec_completes wf not6 not7 _)

/-- Along the run no operation stays in progress, and no line is left over. -/
theorem operationStates_idle (i : Nat) :
    (operationStates c op i).inFlight = none ∧ (operationStates c op i).script = [] := by
  induction i with
  | zero => exact ⟨rfl, rfl⟩
  | succ i ih =>
    obtain ⟨⟨-, script, inFlight, -⟩, -⟩ := operationsLeaveTheRestAlone _ _ _ (exec_operationStates meaning i)
    exact ⟨inFlight.trans ih.1, script.trans ih.2⟩

theorem isRun_operationStates : IsRun none (operationStates c op) :=
  ⟨atReset_resetWith c, fun i _ =>
    have ⟨idle, empty⟩ := operationStates_idle meaning i
    stepsTo_of_exec (meaning i).1 idle empty (exec_operationStates meaning i)⟩

end operations

/-- Settles O49: every operation with a meaning completes, and leaves the block ready for the next one. -/
theorem everyOperationSequenceIsARun : Obligations.EveryOperationSequenceIsARun := fun c op meaning =>
  ⟨operationStates c op, isRun_operationStates meaning, rfl, exec_operationStates meaning⟩

/-! ### The run a script drives -/

/-- A state put before a sequence of states. -/
def beforeStates (s : State) (σ : Nat → State) : Nat → State
  | 0 => s
  | i + 1 => σ i

/-- A run of the machine that answers a state took its first step and went on from there. -/
theorem run_core_succ_eq_next {k : Nat} {s t : State}
    (h : Host.Core.run core (k + 1) s = .next t) :
    ∃ u, step s = .next u ∧ Host.Core.run core k u = .next t := by
  cases first : step s with
  | next u => exact ⟨u, rfl, (run_core_succ k first).symm.trans h⟩
  | fault r => simp [Host.Core.run, show core.step s = .fault r from first] at h
  | refused r => simp [Host.Core.run, show core.step s = .refused r from first] at h

/-- The steps of the machine that take a line, from any state, with the idle ones left out (R216). -/
theorem exists_states_of_run {k : Nat} {s t : State} (h : Host.Core.run core k s = .next t) :
    ∃ (n : Nat) (σ : Nat → State), n ≤ k ∧ (∀ i < n, StepsTo (σ i) (σ (i + 1))) ∧ σ 0 = s ∧ σ n = t := by
  induction k generalizing s with
  | zero =>
    exact ⟨0, fun _ => s, Nat.le_refl 0, nofun, rfl, Host.Outcome.next.inj h⟩
  | succ k ih =>
    obtain ⟨u, first, runs⟩ := run_core_succ_eq_next h
    obtain ⟨n, σ, within, steps, start, last⟩ := ih runs
    by_cases empty : s.script = []
    · cases (nothingHappensWithoutACaller s empty).symm.trans first
      exact ⟨n, σ, Nat.le_succ_of_le within, steps, start, last⟩
    · refine ⟨n + 1, beforeStates s σ, Nat.succ_le_succ within, fun i inside => ?_, rfl, last⟩
      cases i with
      | zero => exact stepsTo_of_step empty (first.trans (congrArg _ start.symm))
      | succ i => exact steps i (Nat.lt_of_succ_lt_succ inside)

/-- Settles O51: the steps that take a line, from a reset state, are a run. -/
theorem scriptsDriveFiniteRuns : Obligations.ScriptsDriveFiniteRuns := by
  intro s t k reset runs
  obtain ⟨n, σ, within, steps, start, last⟩ := exists_states_of_run runs
  exact ⟨n, σ, within, ⟨start ▸ reset, fun i inside => steps i (inside n rfl)⟩, start, last⟩

end Sys2Proof.Machine
